-- ==== Sys2Proof/Word.lean ====
section
/-! DEFINITION. The two word types whose width the spec fixes: a byte of the buffer (R8) and the 32-bit CMD and STATUS
registers (R20). Every index, length and count is a natural number (R9), bounded by the invariants of Safety.lean. -/

namespace Sys2Proof

/-- One byte of the buffer (R8: 8 bits per byte). -/
abbrev Byte := BitVec 8

/-- A 32-bit register word: CMD or STATUS (R20). -/
abbrev Word := BitVec 32

end Sys2Proof
end

