-- ==== Sys2Proof/Syntax.lean ====
section
/-! DEFINITION. The commands of the block: one constructor per row of spec/opcode_table.json (R2, R72). Each carries the TARGET
field of its CMD word (R70), the only operand that the word holds; the others stand in the latched ARG0, ARG1 and BUF_LEN. -/

namespace Sys2Proof

/-- The six commands (R72). -/
inductive Instr where
  /-- Bit address to byte value, byte index and offset (R100). TARGET is ignored (R74). -/
  | addr (target : Byte)
  /-- One bit of the buffer (R101). TARGET is ignored (R74). -/
  | getbit (target : Byte)
  /-- Count of the target bits (R120). -/
  | count (target : Byte)
  /-- Length of the leading run (R130). -/
  | leadrun (target : Byte)
  /-- Longest run in a window (R150). -/
  | maxrun (target : Byte)
  /-- Longest run by segments (R180). -/
  | maxrunPar (target : Byte)
  deriving DecidableEq, Repr

end Sys2Proof
end

