-- ==== Sys2Proof/WellFormed.lean ====
section
/-! DEFINITION. Which commands meet the contract on TARGET (R21, R74). An instruction that is not well formed still has an
encoding, still decodes, and its meaning is the fault BAD_TARGET (R214). -/

namespace Sys2Proof

/-- The TARGET field of an instruction (CMD[15:8], R21). -/
def Instr.target : Instr → Byte
  | .addr t => t
  | .getbit t => t
  | .count t => t
  | .leadrun t => t
  | .maxrun t => t
  | .maxrunPar t => t

/-- Whether the command reads TARGET (R74). -/
def Instr.usesTarget : Instr → Bool
  | .addr _ => false
  | .getbit _ => false
  | .count _ => true
  | .leadrun _ => true
  | .maxrun _ => true
  | .maxrunPar _ => true

/-- The contract of R74: a command that reads TARGET has a TARGET of 0 or 1; one that ignores it may have any. -/
def Instr.wellFormed (i : Instr) : Bool :=
  !i.usesTarget || decide (i.target.toNat ≤ 1)

end Sys2Proof
end

