-- ==== Sys2Proof/Decode.lean ====
section
/-! DEFINITION. The CMD word: its fields (R21), the decoder (R71) and the encoder (R70, R72). -/

namespace Sys2Proof

/-- OP, CMD[3:0] (R21). -/
def cmdOp (w : Word) : BitVec 4 := w.extractLsb' 0 4

/-- TARGET, CMD[15:8] (R21). -/
def cmdTarget (w : Word) : Byte := w.extractLsb' 8 8

/-- Whether a reserved bit is set: RSV0, CMD[7:4], or RSV1, CMD[31:16], is not zero (R21, R31). -/
def cmdReserved (w : Word) : Bool :=
  decide (w.extractLsb' 4 4 ≠ 0#4) || decide (w.extractLsb' 16 16 ≠ 0#16)

/-- Why a CMD word selects no operation (R71, R73). Either reason faults BAD_OPCODE. -/
inductive Reject where
  /-- RSV0 or RSV1 is not zero (R73). -/
  | reservedBits
  /-- OP is 0 or 7..15 (R73). -/
  | reservedOpcode
  deriving DecidableEq, Repr

/-- The opcode map (R72) on the three latched fields, in the order of R71: reserved bits first, then OP. -/
def decodeFields (rsv : Bool) (op : BitVec 4) (target : Byte) : Except Reject Instr :=
  if rsv then .error .reservedBits
  else if op = 1#4 then .ok (.addr target)
  else if op = 2#4 then .ok (.getbit target)
  else if op = 3#4 then .ok (.count target)
  else if op = 4#4 then .ok (.leadrun target)
  else if op = 5#4 then .ok (.maxrun target)
  else if op = 6#4 then .ok (.maxrunPar target)
  else .error .reservedOpcode

/-- The decoder: total on every 32-bit word (R71). -/
def decode (w : Word) : Except Reject Instr :=
  decodeFields (cmdReserved w) (cmdOp w) (cmdTarget w)

/-- The opcode number of an instruction (R72). -/
def Instr.opcode : Instr → BitVec 4
  | .addr _ => 1#4
  | .getbit _ => 2#4
  | .count _ => 3#4
  | .leadrun _ => 4#4
  | .maxrun _ => 5#4
  | .maxrunPar _ => 6#4

/-- The CMD word of an instruction: RSV1 = 0, TARGET, RSV0 = 0, OP, most significant first (R70). -/
def encode (i : Instr) : Word :=
  0#16 ++ i.target ++ 0#4 ++ i.opcode

/-- The CMD word of which the opcode table gives the low `nbits` bits as `w`, every bit above them zero. -/
def tableWord (nbits w : Nat) : Word := BitVec.ofNat 32 (w % 2 ^ nbits)

/-- The instruction this decoder reads from the word that the opcode table numbers `w`: the CMD register is one 32-bit word,
written whole (R21), so no byte order arises. -/
def decodeTableWord (nbits w : Nat) : Option Instr :=
  match decode (tableWord nbits w) with
  | .ok i => some i
  | .error _ => none

end Sys2Proof
end

