-- ==== Sys2Proof/Config.lean ====
section
/-! DEFINITION. What an implementation of the block fixes (IDX_W, NWORKERS) and the free values, which the spec leaves open. -/

namespace Sys2Proof

/-- The implementation parameters. `idxW` is IDX_W (R6: at least 4) and `nWorkers` is NWORKERS (R7: at least 1). The model takes
them as a field of State that no step writes, so that a claim about every state is a claim about every choice of them
(DESIGN CHOICE, assumption 1). -/
structure Params where
  idxW : Nat
  nWorkers : Nat
  idxW_ge : 4 ≤ idxW
  nWorkers_pos : 1 ≤ nWorkers
  deriving DecidableEq, Repr

/-- DESIGN CHOICE (assumption 1): the parameters of the one state `State.reset`. Both are OPEN in the spec (R6, R7). -/
def Config.resetParams : Params := ⟨32, 4, by decide, by decide⟩

/-- Free values (assumptions 5, 6, 8, 14): `Config.free d j` is the `j`-th value of the `d`-th draw. Nothing is known of it. -/
opaque Config.free : Nat → Nat → Nat

/-- A free value (DESIGN CHOICE, assumption 3): how many host events land between the `d`-th launch and the completion of its command.
Finite, and otherwise unconstrained (R256, R257). -/
opaque Config.latency : Nat → Nat

end Sys2Proof
end

