-- ==== Sys2Proof/Machine/State.lean ====
section
/-! DEFINITION. The state of the block and of its host as plain data: every register of 10_state.md, the buffer of 20_memory.md,
the host agent of R225 and R78 to R80, and the model's own fields. Also the faults, the refusals, and the state after reset. -/

namespace Sys2Proof.Machine

/-- The fault codes that the block raises (R212). Codes 7..15 are reserved and never raised. -/
inductive FaultCode where
  | badOpcode
  | badTarget
  | badBuflen
  | badSegcount
  | badStart
  | badPos
  deriving DecidableEq, Repr

/-- The block state `st` (R29), with the fault code that STATUS.FCODE shows in FAULT (R24). -/
inductive BlockState where
  | idle
  | busy
  | done
  | fault (code : FaultCode)
  deriving DecidableEq, Repr

/-- The latched command (R32): L_OP, L_RSV, L_TGT, L_A0, L_A1, L_LEN. -/
structure Latch where
  op : BitVec 4
  rsv : Bool
  tgt : Byte
  a0 : Nat
  a1 : Nat
  len : Nat
  deriving DecidableEq, Repr

/-- The bit cursor (R33): CUR_BYTE, CUR_IDX, CUR_OFF, CUR_POS. -/
structure Cursor where
  byte : Byte
  idx : Nat
  off : Nat
  pos : Nat
  deriving DecidableEq, Repr

/-- A Run (R13). -/
structure Run where
  len : Nat
  start : Nat
  deriving DecidableEq, Repr

/-- A Segment (R14). -/
structure Segment where
  start : Nat
  length : Nat
  deriving DecidableEq, Repr

/-- The scan registers: the cursor (R33), K, CUR_LEN and CUR_START (`cur`), BEST_LEN and BEST_START (`best`) (R34). The coordinator
holds one file of them and each worker another (R36). -/
structure ScanRegs where
  cursor : Cursor
  k : Nat
  cur : Run
  best : Run
  deriving DecidableEq, Repr

/-- One result slot SR[i]: a Run and its VALID bit (R35). -/
structure Slot where
  run : Run
  valid : Bool
  deriving DecidableEq, Repr

/-- One worker (R36): its private scan registers, and ASSIGNED, a segment number or NONE. -/
structure Worker where
  regs : ScanRegs
  assigned : Option Nat
  deriving DecidableEq, Repr

/-- The segment state of MAXRUN_PAR (R35) and the worker register files (R36). -/
structure Par where
  nseg : Nat
  seg : List Segment
  sr : List Slot
  join : Nat
  workers : List Worker
  deriving DecidableEq, Repr

/-- The byte buffer: the bytes that the host has supplied, by address, in one canonical form (R50). -/
abbrev Memory := List Host.Cell

/-- One event of the host (R225): a register access by number (R20), a write of one buffer byte, reset, or host control flow,
which does not reach the block (R79). Branch targets are places in the host's program. -/
inductive HostOp where
  /-- Write a value to a register. -/
  | write (reg value : Nat)
  /-- Write ARG1 with 8 times the value the host last wrote to BUF_LEN (MAXRUN_WHOLE, R80). -/
  | writeWhole
  /-- Write one byte of the buffer. -/
  | writeBuf (address : Nat) (value : Byte)
  /-- READ: read a register, an observation of the program. -/
  | read (reg : Nat)
  /-- The register read inside WAIT (R80), which the program's list of READ values leaves out (R259; DEDUCED, assumption 21). -/
  | poll (reg : Nat)
  /-- Assert reset. -/
  | reset
  /-- BEQ (`ifEqual`) or BNE on what the host last read from a register. -/
  | branch (ifEqual : Bool) (reg mask value target : Nat)
  /-- BRA. -/
  | jump (target : Nat)
  deriving DecidableEq, Repr

/-- What one register read returned, and whether it is a READ statement of the program, which R259 observes. -/
structure ReadEvent where
  reg : Nat
  value : Nat
  observed : Bool
  deriving DecidableEq, Repr

/-- The host agent: its program, its place in it, what its reads returned (the newest first; R79, R259), and the value that it
last wrote to BUF_LEN (R80). -/
structure HostState where
  prog : List HostOp
  pc : Nat
  reads : List ReadEvent
  lastLen : Option Nat
  deriving DecidableEq, Repr



/-- The whole machine. -/
structure State where
  /-- The parameters IDX_W and NWORKERS (R6, R7); no step writes them. -/
  p : Params
  /-- CMD (R21). -/
  cmd : Word
  /-- ARG0 (R22). -/
  arg0 : Nat
  /-- ARG1 (R22). -/
  arg1 : Nat
  /-- BUF_LEN (R23). -/
  bufLen : Nat
  /-- The block state, of which STATUS is the host's view (R24, R29). -/
  st : BlockState
  /-- FINFO; it reads 0 outside FAULT (R25). -/
  finfo : Nat
  /-- RES0; defined in DONE and IDLE (R26). -/
  res0 : Nat
  /-- RES1. -/
  res1 : Nat
  /-- RES2. -/
  res2 : Nat
  /-- The latched command (R32). -/
  latch : Latch
  /-- The coordinator's cursor, K, current run and best run (R33, R34). -/
  scan : ScanRegs
  /-- CNT, the tally of COUNT (R34). -/
  cnt : Nat
  /-- LR_N, the length of LEADRUN (R34). -/
  lrN : Nat
  /-- The segment table, the slots, JOIN and the workers (R35, R36). -/
  par : Par
  /-- The byte buffer (R50). -/
  buf : Memory
  /-- The host agent (R225). -/
  host : HostState
  /-- The model's own (DESIGN CHOICE, assumption 3): how many host events still land before the running command completes. -/
  delay : Nat
  /-- The model's own (DESIGN CHOICE, assumption 4): which enabled worker event comes next, and next, an input. -/
  sched : List Nat
  /-- The model's own (DESIGN CHOICE, assumption 5): how many draws of a free value have been made. -/
  draws : Nat
  deriving DecidableEq, Repr

/-- Where the machine stops with a fault. No contract violation is one of these: those are next states (R211). -/
inductive Fault where
  /-- Raised by `memRead`: a read at or past L_LEN, "a bug in itself" of a model that reaches it (R51). Safe: the model stops. -/
  | readPastLen (address : Nat)
  /-- Raised by `fanOut`: the join barrier has not lifted and no worker event is left (R190 excludes it). Safe: the model stops. -/
  | joinNotLifted
  deriving DecidableEq, Repr

/-- Where the model has no transition. -/
inductive Refusal where
  /-- Raised by an arm of `exec` whose instruction has no meaning yet. Safe. -/
  | notModelled (mnemonic : String)
  /-- Raised by `memRead`: a byte below L_LEN that the host never supplied, host duty (b) of R250 (93 item 15). Safe. -/
  | bufferNotSupplied (address : Nat)
  /-- Raised by the host's `writeBuf` while the block is BUSY, host duty (a) of R250 (R55; 93 item 14). Safe. -/
  | bufferWriteWhileBusy (address : Nat)
  deriving DecidableEq, Repr

/-- DESIGN CHOICE (assumption 7): the cursor of `State.reset`; the spec leaves it unspecified (R38). -/
def Cursor.zero : Cursor := ⟨0, 0, 0, 0⟩

/-- DESIGN CHOICE (assumption 7): the scan registers of `State.reset`; the spec leaves them unspecified (R38). -/
def ScanRegs.zero : ScanRegs := ⟨Cursor.zero, 0, ⟨0, 0⟩, ⟨0, 0⟩⟩

/-- The block right after power-on with parameters `p`, and a host with no program (R38, R240). The host-visible registers have the
values of R38; the internal registers, unspecified there, have zeros (DESIGN CHOICE, assumption 7). -/
def State.resetOf (p : Params) : State where
  p := p
  cmd := 0
  arg0 := 0
  arg1 := 0
  bufLen := 0
  st := .idle
  finfo := 0
  res0 := 0
  res1 := 0
  res2 := 0
  latch := ⟨0, false, 0, 0, 0, 0⟩
  scan := ScanRegs.zero
  cnt := 0
  lrN := 0
  par := ⟨0, [], [], 0, List.replicate p.nWorkers ⟨ScanRegs.zero, none⟩⟩
  buf := []
  host := ⟨[], 0, [], none⟩
  delay := 0
  sched := []
  draws := 0

/-- The machine right after reset (R38, R240), at the parameters of Config (DESIGN CHOICE, assumption 1). -/
def State.reset : State := State.resetOf Config.resetParams

end Sys2Proof.Machine
end

