-- ==== Sys2Proof/Machine/Flags.lean ====
section
/-! DEFINITION. STATUS, the block's only flags (R24, R28), the fault code numbers (R212) and what FINFO reads (R25). -/

namespace Sys2Proof.Machine

/-- FCODE of a fault (R212). -/
def FaultCode.number : FaultCode → BitVec 4
  | .badOpcode => 1#4
  | .badTarget => 2#4
  | .badBuflen => 3#4
  | .badSegcount => 4#4
  | .badStart => 5#4
  | .badPos => 6#4

/-- STATUS[2:0]: FAULT, DONE, BUSY (R24). -/
def BlockState.low : BlockState → BitVec 3
  | .idle => 0b000#3
  | .busy => 0b001#3
  | .done => 0b010#3
  | .fault _ => 0b100#3

/-- STATUS.FCODE: 0 unless FAULT = 1 (R24). -/
def BlockState.fcode : BlockState → BitVec 4
  | .idle => 0#4
  | .busy => 0#4
  | .done => 0#4
  | .fault c => c.number

/-- STATUS: RSV[31:12] = 0, FCODE[11:8], RSV[7:3] = 0, FAULT, DONE, BUSY (R24). -/
def BlockState.status (st : BlockState) : Word :=
  0#20 ++ st.fcode ++ 0#5 ++ st.low

/-- What FINFO reads: the offending value in FAULT, 0 in every other state (R25). -/
def State.finfoRead (s : State) : Nat :=
  match s.st with
  | .fault _ => s.finfo
  | .idle => 0
  | .busy => 0
  | .done => 0

/-- Whether RES0..RES2 hold defined values: in DONE, and in IDLE, which only reset produces (R26). -/
def BlockState.resDefined : BlockState → Bool
  | .idle => true
  | .busy => false
  | .done => true
  | .fault _ => false

end Sys2Proof.Machine
end

