-- ==== Sys2Proof/Machine/Ops.lean ====
section
/-! DEFINITION. The shared operations: the buffer, the register file as the host sees it, launch, fault entry, completion and
reset. -/

namespace Sys2Proof.Machine

/-- Go on with the value of a first computation, or stop as it stopped. -/
def andThen {α β : Type} (o : Host.Outcome α Fault Refusal) (f : α → Host.Outcome β Fault Refusal) :
    Host.Outcome β Fault Refusal :=
  match o with
  | .next a => f a
  | .fault r => .fault r
  | .refused r => .refused r

/-- What an address that no entry lists reads as: no value (DESIGN CHOICE, assumption 10). -/
def Memory.unlisted : Option Byte := none

/-- The byte at an address. -/
def Memory.read : Memory → Nat → Option Byte
  | [], _ => Memory.unlisted
  | (k, b) :: m, a => if k = a then some b else Memory.read m a

/-- Write one byte, keeping the addresses strictly rising. -/
def Memory.write : Memory → Nat → Byte → Memory
  | [], a, b => [(a, b)]
  | (k, c) :: m, a, b =>
    if a < k then (a, b) :: (k, c) :: m
    else if a = k then (a, b) :: m
    else (k, c) :: Memory.write m a b

/-- The canonical form: addresses strictly rising. No entry can equal what an unlisted address reads as, which is no value. -/
abbrev Memory.wf (m : Memory) : Prop := (m.map (·.1)).Pairwise (· < ·)

/-- MemRead(a, 1) in a buffer of `n` bytes (R51): defined only below `n`. -/
def memRead (m : Memory) (n a : Nat) : Host.Outcome Byte Fault Refusal :=
  if a < n then
    match Memory.read m a with
    | some b => .next b
    | none => .refused (.bufferNotSupplied a)
  else .fault (.readPastLen a)

/-- A free value of IDX_W bits: item `j` of draw `d`. -/
def freeWord (p : Params) (d j : Nat) : Nat := Config.free d j % 2 ^ p.idxW

/-- zext_IDX_W(v) (R9, R10). Where `v` does not fit in IDX_W bits the spec states no value, and the register takes a free one
(DESIGN CHOICE, assumption 8). -/
def fit (p : Params) (d j v : Nat) : Nat := if v < 2 ^ p.idxW then v else freeWord p d j

/-- A value written to a register of 32 bits (R20). Where it does not fit the spec states no result, and the register takes a free
value (DESIGN CHOICE, assumption 9). -/
def fitWord (d v : Nat) : Word := BitVec.ofNat 32 (if v < 2 ^ 32 then v else Config.free d 0)

/-- Every worker stops, and its slot is discarded (R211). R211 does not say what a discarded slot or JOIN then holds: every VALID bit
is cleared, also of a slot that an earlier MAXRUN_PAR left (DESIGN CHOICE, assumption 23), and JOIN is 0, the number of valid slots
that R35 calls it (DEDUCED, assumption 23). -/
def Par.stop (q : Par) : Par :=
  { q with
    sr := q.sr.map fun x => { x with valid := false }
    join := 0
    workers := q.workers.map fun w => { w with assigned := none } }

/-- Fault entry, raise Fault(code, info) (R211). RES0..RES2 keep what they hold, which no read in FAULT shows (R26). -/
def State.raise (s : State) (code : FaultCode) (info : Nat) : State :=
  { s with
    st := .fault code
    finfo := fit s.p s.draws 0 info
    par := s.par.stop
    draws := s.draws + 1 }

/-- Completion (R61, R76): the three results and DONE in one step. -/
def State.finish (s : State) (r0 r1 r2 : Nat) : State :=
  { s with
    st := .done
    res0 := fit s.p s.draws 0 r0
    res1 := fit s.p s.draws 1 r1
    res2 := fit s.p s.draws 2 r2
    draws := s.draws + 1 }

/-- The latch that a CMD write of `w` makes (R31). -/
def State.latchOf (s : State) (w : Word) : Latch where
  op := cmdOp w
  rsv := cmdReserved w
  tgt := cmdTarget w
  a0 := s.arg0
  a1 := s.arg1
  len := s.bufLen

/-- Launch of the word `w`, to complete after `n` host events (R31). -/
def State.launchAfter (s : State) (w : Word) (n : Nat) : State :=
  { s with
    cmd := w
    latch := s.latchOf w
    st := .busy
    finfo := 0
    delay := n }

/-- A host write to CMD (R31): it launches in IDLE and DONE, and has no effect in BUSY and FAULT (R220). -/
def State.writeCmd (s : State) (w : Word) : State :=
  match s.st with
  | .idle => { s.launchAfter w (Config.latency s.draws) with draws := s.draws + 1 }
  | .done => { s.launchAfter w (Config.latency s.draws) with draws := s.draws + 1 }
  | .busy => s
  | .fault _ => s

/-- A host write to a register by number (R20, R31). A register too narrow for the value takes a free one (DESIGN CHOICE,
assumption 9). Writes to a read-only register or to a number above 8 have no effect. -/
def State.writeReg (s : State) (r v : Nat) : State :=
  match r with
  | 0 => s.writeCmd (fitWord s.draws v)
  | 1 => { s with arg0 := fit s.p s.draws 0 v, draws := s.draws + 1 }
  | 2 => { s with arg1 := fit s.p s.draws 0 v, draws := s.draws + 1 }
  | 3 => { s with bufLen := fit s.p s.draws 0 v, draws := s.draws + 1 }
  | _ => s

/-- A host read of a result register that holds `v` (R26): in BUSY and FAULT each read draws a value of IDX_W bits. -/
def State.readRes (s : State) (v : Nat) : Nat × State :=
  if s.st.resDefined then (v, s)
  else (freeWord s.p s.draws 0, { s with draws := s.draws + 1 })

/-- A host read of a register by number (R20): the value, and the state after it. A number above 8 reads 0. -/
def State.readReg (s : State) (r : Nat) : Nat × State :=
  match r with
  | 0 => (s.cmd.toNat, s)
  | 1 => (s.arg0, s)
  | 2 => (s.arg1, s)
  | 3 => (s.bufLen, s)
  | 4 => (s.st.status.toNat, s)
  | 5 => (s.finfoRead, s)
  | 6 => s.readRes s.res0
  | 7 => s.readRes s.res1
  | 8 => s.readRes s.res2
  | _ => (0, s)

/-- Free scan registers, from item `j` of draw `d` on (R38: unspecified). -/
def freeRegs (p : Params) (d j : Nat) : ScanRegs where
  cursor := ⟨BitVec.ofNat 8 (Config.free d j), freeWord p d (j + 1), Config.free d (j + 2) % 8, freeWord p d (j + 3)⟩
  k := freeWord p d (j + 4)
  cur := ⟨freeWord p d (j + 5), freeWord p d (j + 6)⟩
  best := ⟨freeWord p d (j + 7), freeWord p d (j + 8)⟩

/-- A free latch, from draw `d` (R38: unspecified). -/
def freeLatch (p : Params) (d : Nat) : Latch where
  op := BitVec.ofNat 4 (Config.free d 0)
  rsv := decide (Config.free d 1 % 2 = 1)
  tgt := BitVec.ofNat 8 (Config.free d 2)
  a0 := freeWord p d 3
  a1 := freeWord p d 4
  len := freeWord p d 5

/-- Free segment state and worker files, from the draws `d` to `d + 3` (R38: unspecified). There are NWORKERS workers always. -/
def freePar (p : Params) (d : Nat) : Par where
  nseg := freeWord p d 0
  seg := (List.range (freeWord p d 1)).map fun i => ⟨freeWord p (d + 1) (2 * i), freeWord p (d + 1) (2 * i + 1)⟩
  sr := (List.range (freeWord p d 2)).map fun i =>
    ⟨⟨freeWord p (d + 2) (3 * i), freeWord p (d + 2) (3 * i + 1)⟩, decide (Config.free (d + 2) (3 * i + 2) % 2 = 1)⟩
  join := freeWord p d 3
  workers := (List.range p.nWorkers).map fun i =>
    ⟨freeRegs p (d + 3) (11 * i),
      if Config.free (d + 3) (11 * i + 9) % 2 = 1 then some (freeWord p (d + 3) (11 * i + 10)) else none⟩

/-- Reset (R240): IDLE, every host-visible register at its value of R38, every internal register unspecified (a free value,
assumption 6), the running command abandoned, the buffer and the host unchanged. -/
def State.applyReset (s : State) : State :=
  { s with
    cmd := 0
    arg0 := 0
    arg1 := 0
    bufLen := 0
    st := .idle
    finfo := 0
    res0 := 0
    res1 := 0
    res2 := 0
    latch := freeLatch s.p s.draws
    scan := freeRegs s.p s.draws 6
    cnt := freeWord s.p s.draws 15
    lrN := freeWord s.p s.draws 16
    par := freePar s.p (s.draws + 1)
    delay := 0
    draws := s.draws + 5 }

end Sys2Proof.Machine
end

