-- ==== Sys2Proof/Machine/Operands.lean ====
section
/-! DEFINITION. The operands of a command, read from the latch (R32, R75), and the launch checks on them (R213, R214, R215). -/

namespace Sys2Proof.Machine

/-- `n`, the latched buffer length in bytes (R32, R75). -/
def State.n (s : State) : Nat := s.latch.len

/-- bitlen = 8 * L_LEN (R12, R32). -/
def State.bitlen (s : State) : Nat := 8 * s.n

/-- The BitIndex operand of ADDR and GETBIT (R75). -/
def State.pos (s : State) : Nat := s.latch.a0

/-- The start operand of LEADRUN and MAXRUN (R75). -/
def State.start (s : State) : Nat := s.latch.a0

/-- The window_size operand of LEADRUN and MAXRUN (R75). -/
def State.window (s : State) : Nat := s.latch.a1

/-- The segment_count operand of MAXRUN_PAR (R75). -/
def State.segCount (s : State) : Nat := s.latch.a0

/-- A failed check: the code and the value for FINFO. -/
abbrev Violation := FaultCode × Nat

/-- Check 2 of R214, the width bound of R215. -/
def checkBuflen (s : State) : Option Violation :=
  if 2 ^ s.p.idxW ≤ s.bitlen then some (.badBuflen, s.n) else none

/-- Check 3 of R214 (R74). -/
def checkTarget (target : Byte) : Option Violation :=
  if 1 < target.toNat then some (.badTarget, target.toNat) else none

/-- Check 4 of R214. -/
def checkSegcount (s : State) : Option Violation :=
  if s.segCount = 0 then some (.badSegcount, 0) else none

/-- Check 5 of R214 for ADDR and GETBIT (R213). -/
def checkPos (s : State) : Option Violation :=
  if s.bitlen ≤ s.pos then some (.badPos, s.pos) else none

/-- Check 5 of R214 for LEADRUN and MAXRUN (R213). -/
def checkStart (s : State) : Option Violation :=
  if s.bitlen ≤ s.start then some (.badStart, s.start) else none

/-- Check 5 of R214 for MAXRUN_PAR (R213, R185). -/
def checkNonempty (s : State) : Option Violation :=
  if s.bitlen = 0 then some (.badStart, 0) else none

/-- The first check of a list that fails (R214). -/
def firstViolation : List (Option Violation) → Option Violation
  | [] => none
  | some v :: _ => some v
  | none :: cs => firstViolation cs

/-- Run the checks in order; the first that fails is the fault, and a command that passes them all goes on (R210, R214). -/
def checked (s : State) (cs : List (Option Violation)) (go : Host.Outcome State Fault Refusal) :
    Host.Outcome State Fault Refusal :=
  match firstViolation cs with
  | some v => .next (s.raise v.1 v.2)
  | none => go

end Sys2Proof.Machine
end

