-- ==== Sys2Proof/Machine/Cursor.lean ====
section
/-! DEFINITION. The bits of a byte and of the buffer (R11), and the bit cursor of the scanners (R104 to R107). -/

namespace Sys2Proof.Machine

/-- The bit of a byte at an offset, counted from the most significant (R107): (b >> (7 - off)) & 1. -/
def bitOfByte (b : Byte) (off : Nat) : Nat := ((b >>> (7 - off)) &&& 1#8).toNat

/-- The same bit as R11 and R101 take it: by the mask 1 << (7 - off). -/
def maskedBit (b : Byte) (off : Nat) : Nat :=
  if b &&& (1#8 <<< (7 - off)) ≠ 0#8 then 1 else 0

/-- bit(p) of the buffer (R11), where the host has supplied its byte. -/
def Memory.bitAt (m : Memory) (p : Nat) : Option Nat :=
  (Memory.read m (p / 8)).map fun b => maskedBit b (p % 8)

/-- CURSOR_INIT(s) (R104) in a buffer of `n` bytes. -/
def cursorInit (m : Memory) (n s : Nat) : Host.Outcome Cursor Fault Refusal :=
  andThen (memRead m n (s / 8)) fun b => .next ⟨b, s / 8, s % 8, s⟩

/-- The normalization of R106: one subtraction. -/
def normalize (bitlen raw : Nat) : Nat := if bitlen ≤ raw then raw - bitlen else raw

/-- CURSOR_ADVANCE() (R106). -/
def cursorAdvance (m : Memory) (n : Nat) (c : Cursor) : Host.Outcome Cursor Fault Refusal :=
  if c.off = 7 then
    let i := if c.idx + 1 = n then 0 else c.idx + 1
    andThen (memRead m n i) fun b => .next ⟨b, i, 0, normalize (8 * n) (c.pos + 1)⟩
  else
    .next { c with off := c.off + 1, pos := normalize (8 * n) (c.pos + 1) }

/-- CUR_BIT (R107). -/
def Cursor.bit (c : Cursor) : Nat := bitOfByte c.byte c.off

end Sys2Proof.Machine
end

