-- ==== Sys2Proof/Machine/BitAddressing.lean ====
section
/-! DEFINITION. The bit-address converter: ADDR (R100) and GETBIT (R101). -/

namespace Sys2Proof.Machine

/-- ADDR (R100). TARGET is ignored (R74). -/
def execAddr (_target : Byte) (s : State) : Host.Outcome State Fault Refusal :=
  checked s [checkBuflen s, checkPos s]
    (andThen (memRead s.buf s.n (s.pos / 8)) fun b =>
      .next (s.finish b.toNat (s.pos / 8) (s.pos % 8)))

/-- GETBIT (R101). TARGET is ignored (R74). -/
def execGetbit (_target : Byte) (s : State) : Host.Outcome State Fault Refusal :=
  checked s [checkBuflen s, checkPos s]
    (andThen (memRead s.buf s.n (s.pos / 8)) fun b =>
      .next (s.finish (maskedBit b (s.pos % 8)) 0 0))

end Sys2Proof.Machine
end

