-- ==== Sys2Proof/Machine/Count.lean ====
section
/-! DEFINITION. The bit counter: COUNT (R120). -/

namespace Sys2Proof.Machine

/-- The inner loop of R120: the 8 positions of one byte, most significant first, added to the tally `c`. -/
def countByte (target : Nat) (b : Byte) (c : Nat) : Nat :=
  (List.range 8).foldl (fun c off => if bitOfByte b off = target then c + 1 else c) c

/-- The outer loop of R120: `fuel` bytes from byte `i` on, with the tally `c`. -/
def countFrom (m : Memory) (n target : Nat) : (fuel i c : Nat) → Host.Outcome Nat Fault Refusal
  | 0, _, c => .next c
  | fuel + 1, i, c => andThen (memRead m n i) fun b => countFrom m n target fuel (i + 1) (countByte target b c)

/-- COUNT (R120). CNT holds the tally, and K the number of bits examined (R27, R34; DEDUCED, assumption 13). -/
def execCount (target : Byte) (s : State) : Host.Outcome State Fault Refusal :=
  checked s [checkBuflen s, checkTarget target]
    (andThen (countFrom s.buf s.n target.toNat s.n 0 0) fun c =>
      .next ({ s with cnt := c, scan := { s.scan with k := s.bitlen } }.finish c 0 0))

end Sys2Proof.Machine
end

