-- ==== Sys2Proof/Machine/LeadRun.lean ====
section
/-! DEFINITION. The leading-run scanner: LEADRUN (R130). -/

namespace Sys2Proof.Machine

/-- The loop of R130 with `fuel` = window_size - K bits left: the cursor, K and LR_N when it ends. -/
def leadLoop (m : Memory) (n target : Nat) :
    (fuel : Nat) → Cursor → (k lrN : Nat) → Host.Outcome (Cursor × Nat × Nat) Fault Refusal
  | 0, c, k, lrN => .next (c, k, lrN)
  | fuel + 1, c, k, lrN =>
    if c.bit ≠ target then .next (c, k, lrN)
    else andThen (cursorAdvance m n c) fun c' => leadLoop m n target fuel c' (k + 1) (lrN + 1)

/-- LEADRUN (R130). -/
def execLeadrun (target : Byte) (s : State) : Host.Outcome State Fault Refusal :=
  checked s [checkBuflen s, checkTarget target, checkStart s]
    (andThen (cursorInit s.buf s.n s.start) fun c =>
      andThen (leadLoop s.buf s.n target.toNat s.window c 0 0) fun e =>
        .next ({ s with scan := { s.scan with cursor := e.1, k := e.2.1 }, lrN := e.2.2 }.finish e.2.2 0 0))

end Sys2Proof.Machine
end

