-- ==== Sys2Proof/Machine/MaxRun.lean ====
section
/-! DEFINITION. The maximal-run scanner and its reducer: MAXRUN (R150), MAXRUN_CORE (R151), KEEP_FIRST_MAX (R152). -/

namespace Sys2Proof.Machine

/-- KEEP_FIRST_MAX (R152). -/
def keepFirstMax (best cand : Run) : Run := if best.len < cand.len then cand else best

/-- MAXRUN_CORE(s, w) before its loop (R151). -/
def coreInit (m : Memory) (n s : Nat) : Host.Outcome ScanRegs Fault Refusal :=
  andThen (cursorInit m n s) fun c => .next ⟨c, 0, ⟨0, s⟩, ⟨0, s⟩⟩

/-- The comparison of one iteration of R151: the current run extends, or is compared with the best and opens again. -/
def coreCompare (n target : Nat) (r : ScanRegs) : ScanRegs :=
  if r.cursor.bit = target then { r with cur := { r.cur with len := r.cur.len + 1 } }
  else
    { r with
      best := keepFirstMax r.best r.cur
      cur := ⟨0, normalize (8 * n) (r.cursor.pos + 1)⟩ }

/-- One iteration of the loop of R151. -/
def coreStep (m : Memory) (n target : Nat) (r : ScanRegs) : Host.Outcome ScanRegs Fault Refusal :=
  andThen (cursorAdvance m n r.cursor) fun c => .next { coreCompare n target r with cursor := c, k := r.k + 1 }

/-- The final comparison of R151. -/
def coreFinish (r : ScanRegs) : ScanRegs := { r with best := keepFirstMax r.best r.cur }

/-- The loop of R151 with `fuel` = w - K iterations left. -/
def coreLoop (m : Memory) (n target : Nat) : (fuel : Nat) → ScanRegs → Host.Outcome ScanRegs Fault Refusal
  | 0, r => .next r
  | fuel + 1, r => andThen (coreStep m n target r) (coreLoop m n target fuel)

/-- MAXRUN_CORE(s, w) (R151): the scan registers at its end, `best` being its result. -/
def maxrunCore (m : Memory) (n target s w : Nat) : Host.Outcome ScanRegs Fault Refusal :=
  andThen (coreInit m n s) fun r => andThen (coreLoop m n target w r) fun r' => .next (coreFinish r')

/-- MAXRUN (R150). -/
def execMaxrun (target : Byte) (s : State) : Host.Outcome State Fault Refusal :=
  checked s [checkBuflen s, checkTarget target, checkStart s]
    (andThen (maxrunCore s.buf s.n target.toNat s.start s.window) fun r =>
      .next ({ s with scan := r }.finish r.best.len r.best.start 0))

end Sys2Proof.Machine
end

