-- ==== Sys2Proof/Machine/Segmented.lean ====
section
/-! DEFINITION. The segmented coordinator: MAXRUN_PAR (R180), its partition (R182), workers (R187, R188), join barrier (R190) and
combine (R191, R192). -/

namespace Sys2Proof.Machine

/-- SEG[i] of PARTITION(n, m) (R182). -/
def segmentOf (n m i : Nat) : Segment :=
  if i + 1 < m then ⟨8 * (i * (n / m)), 8 * (n / m)⟩
  else ⟨8 * ((m - 1) * (n / m)), 8 * (n - (m - 1) * (n / m))⟩

/-- PARTITION(n, m) (R182). -/
def partition (n m : Nat) : List Segment := (List.range m).map (segmentOf n m)

/-- What worker w's registers hold when its number is not in the table; `Par.Fit` excludes it (DESIGN CHOICE, assumption 20). -/
def Worker.absent : Worker := ⟨ScanRegs.zero, none⟩

/-- Initialisation at launch of MAXRUN_PAR, after the checks (R186). It writes only VALID of a slot, and the spec leaves the Run there
open until WORKER_FINISH: a slot keeps the Run it had, and one that the old table lacks holds (0, 0) (DESIGN CHOICE,
assumption 24). -/
def parInit (p : Params) (q : Par) (n m : Nat) : Par where
  nseg := m
  seg := partition n m
  sr := (List.range m).map fun i => { q.sr.getD i ⟨⟨0, 0⟩, false⟩ with valid := false }
  join := 0
  workers := (List.range p.nWorkers).map fun w => { q.workers.getD w Worker.absent with assigned := none }

/-- An event of worker `w` (R187). -/
inductive WorkerEvent where
  | take (w i : Nat)
  | step (w : Nat)
  | finish (w : Nat)
  deriving DecidableEq, Repr

/-- Whether segment `i` has been taken: some worker scans it, or its slot is VALID (R187, R188). -/
def Par.taken (q : Par) (i : Nat) : Bool :=
  q.workers.any (fun w => w.assigned == some i) || (q.sr.getD i ⟨⟨0, 0⟩, false⟩).valid

/-- The segments that no worker has taken. -/
def Par.untaken (q : Par) : List Nat := (List.range q.nseg).filter fun i => !q.taken i

/-- The events that worker `w` may make now (R187): take any free segment, or one iteration, or the finish when its loop has
ended. -/
def Par.eventsOf (q : Par) (w : Nat) (x : Worker) : List WorkerEvent :=
  match x.assigned with
  | none => q.untaken.map (WorkerEvent.take w)
  | some i => if x.regs.k < (q.seg.getD i ⟨0, 0⟩).length then [.step w] else [.finish w]

/-- Every event that is enabled (R187, R188): all that any worker may make. -/
def Par.events (q : Par) : List WorkerEvent :=
  (q.workers.zipIdx).flatMap fun x => q.eventsOf x.2 x.1

/-- Put the worker `x` in the place `w`. -/
def Par.setWorker (q : Par) (w : Nat) (x : Worker) : Par := { q with workers := q.workers.set w x }

/-- WORKER_TAKE(w, i) (R187). -/
def workerTake (m : Memory) (n : Nat) (q : Par) (w i : Nat) : Host.Outcome Par Fault Refusal :=
  andThen (coreInit m n (q.seg.getD i ⟨0, 0⟩).start) fun r => .next (q.setWorker w ⟨r, some i⟩)

/-- WORKER_STEP(w) (R187). -/
def workerStep (m : Memory) (n target : Nat) (q : Par) (w : Nat) : Host.Outcome Par Fault Refusal :=
  let x := q.workers.getD w Worker.absent
  andThen (coreStep m n target x.regs) fun r => .next (q.setWorker w { x with regs := r })

/-- WORKER_FINISH(w) (R187). -/
def workerFinish (q : Par) (w : Nat) : Par :=
  let x := q.workers.getD w Worker.absent
  let r := coreFinish x.regs
  let q' := q.setWorker w ⟨r, none⟩
  match x.assigned with
  | some i => { q' with sr := q.sr.set i ⟨r.best, true⟩, join := q.join + 1 }
  | none => q'

/-- What one worker event does. -/
def workerEvent (m : Memory) (n target : Nat) (q : Par) : WorkerEvent → Host.Outcome Par Fault Refusal
  | .take w i => workerTake m n q w i
  | .step w => workerStep m n target q w
  | .finish w => .next (workerFinish q w)

/-- The event that the schedule picks: its first number chooses among the enabled events, and with no number left the first of
them is next (DESIGN CHOICE, assumption 4). -/
def pick (sched : List Nat) (e : WorkerEvent) (es : List WorkerEvent) : WorkerEvent :=
  (e :: es).getD (sched.headD 0 % (e :: es).length) e

/-- The fan-out up to the join barrier (R187, R190): worker events in the order of the schedule until JOIN = NSEG. The result is the
segment state, and the schedule that is left. -/
def fanOut (m : Memory) (n target : Nat) : (fuel : Nat) → List Nat → Par → Host.Outcome (Par × List Nat) Fault Refusal
  | 0, sched, q => if q.join = q.nseg then .next (q, sched) else .fault .joinNotLifted
  | fuel + 1, sched, q =>
    if q.join = q.nseg then .next (q, sched)
    else
      match q.events with
      | [] => .fault .joinNotLifted
      | e :: es => andThen (workerEvent m n target q (pick sched e es)) (fanOut m n target fuel sched.tail)

/-- How many events a fan-out makes: a TAKE and a FINISH for each segment, and a STEP for each bit (R256). -/
def fanOutFuel (n m : Nat) : Nat := 8 * n + 2 * m

/-- The fold of the slots in index order (R191). -/
def reduceSlots : List Slot → Run
  | [] => ⟨0, 0⟩
  | x :: xs => xs.foldl (fun r y => keepFirstMax r y.run) x.run

/-- A combine tree (R192): a slot, or two subtrees, the left one over the lower indices. -/
inductive CombineTree where
  | leaf (r : Run)
  | node (left right : CombineTree)
  deriving DecidableEq, Repr

/-- The leaves of a combine tree, left to right (R192). -/
def CombineTree.leaves : CombineTree → List Run
  | .leaf r => [r]
  | .node l r => l.leaves ++ r.leaves

/-- What a combine tree computes (R192). -/
def CombineTree.value : CombineTree → Run
  | .leaf r => r
  | .node l r => keepFirstMax l.value r.value

/-- MAXRUN_PAR (R180). -/
def execMaxrunPar (target : Byte) (s : State) : Host.Outcome State Fault Refusal :=
  checked s [checkBuflen s, checkTarget target, checkSegcount s, checkNonempty s]
    (andThen (fanOut s.buf s.n target.toNat (fanOutFuel s.n s.segCount) s.sched (parInit s.p s.par s.n s.segCount)) fun e =>
      .next ({ s with par := e.1, sched := e.2 }.finish (reduceSlots e.1.sr).len (reduceSlots e.1.sr).start 0))

end Sys2Proof.Machine
end

