-- ==== Sys2Proof/Machine/Dispatch.lean ====
section
/-! DEFINITION. The dispatch of a decoded command to its meaning (R72): one arm per constructor of Instr. -/

namespace Sys2Proof.Machine

def exec (i : Instr) (s : State) : Host.Outcome State Fault Refusal :=
  match i with
  | .addr target => Sys2Proof.Machine.execAddr target s
  | .getbit target => Sys2Proof.Machine.execGetbit target s
  | .count target => Sys2Proof.Machine.execCount target s
  | .leadrun target => Sys2Proof.Machine.execLeadrun target s
  | .maxrun target => Sys2Proof.Machine.execMaxrun target s
  | .maxrunPar target => Sys2Proof.Machine.execMaxrunPar target s

end Sys2Proof.Machine
end

