-- ==== Sys2Proof/Machine/HostAgent.lean ====
section
/-! DEFINITION. The host agent (R225): the effect of each event of its program on the block and on itself (R78 to R80). -/

namespace Sys2Proof.Machine

/-- The host's next event, none past its last statement (R259). -/
def State.hostOp? (s : State) : Option HostOp := s.host.prog[s.host.pc]?

/-- Put a program into the host's hands, to run from its first event. The host remembers nothing of an earlier program, neither what it
read nor the BUF_LEN it wrote, so the observation of R259 is that of this program (DESIGN CHOICE, assumption 12). -/
def State.loadHost (s : State) (prog : List HostOp) : State :=
  { s with host := ⟨prog, 0, [], none⟩ }

/-- The host goes to a place in its program. -/
def State.hostGoto (s : State) (pc : Nat) : State := { s with host := { s.host with pc := pc } }

/-- The host goes to the next event of its program. -/
def State.hostNext (s : State) : State := s.hostGoto (s.host.pc + 1)

/-- The host remembers the value it last wrote to BUF_LEN (R80). -/
def State.hostWrote (s : State) (r v : Nat) : State :=
  if r = 3 then { s with host := { s.host with lastLen := some v } } else s

/-- The host records what a read returned (R79, R259). -/
def State.hostSaw (s : State) (e : ReadEvent) : State :=
  { s with host := { s.host with reads := e :: s.host.reads } }

/-- What the host last read from a register (R79). -/
def HostState.lastRead (h : HostState) (r : Nat) : Option Nat := (h.reads.find? (fun e => e.reg == r)).map (·.value)

/-- A value that the host may not have: it, or a free value where the spec states none (DESIGN CHOICE, assumption 14). -/
def State.orFree (s : State) (v : Option Nat) : Nat × State :=
  match v with
  | some x => (x, s)
  | none => (freeWord s.p s.draws 0, { s with draws := s.draws + 1 })

/-- A register write of the host. -/
def hostWrite (r v : Nat) (s : State) : State := ((s.writeReg r v).hostWrote r v).hostNext

/-- ARG1 <- 8 * BUF_LEN, with the value the host last wrote to BUF_LEN (R80). -/
def hostWriteWhole (s : State) : State :=
  let x := s.orFree s.host.lastLen
  (x.2.writeReg 2 (8 * x.1)).hostNext

/-- A write of one buffer byte: the host has no such move while the block is BUSY (R55, R79, R250). -/
def hostWriteBuf (a : Nat) (b : Byte) (s : State) : Host.Outcome State Fault Refusal :=
  if s.st = .busy then .refused (.bufferWriteWhileBusy a)
  else .next ({ s with buf := Memory.write s.buf a b }.hostNext)

/-- A register read of the host: READ (R79), `observed`, or the read inside WAIT (R80). -/
def hostRead (observed : Bool) (r : Nat) (s : State) : State :=
  let x := s.readReg r
  (x.2.hostSaw ⟨r, x.1, observed⟩).hostNext

/-- The observation of a host program: the values that its READ statements returned, in order (R259). -/
def State.observation (s : State) : List Nat := ((s.host.reads.filter (·.observed)).map (·.value)).reverse

/-- BEQ and BNE (R79). -/
def hostBranch (ifEqual : Bool) (r mask value target : Nat) (s : State) : State :=
  let x := s.orFree (s.host.lastRead r)
  if decide (x.1 &&& mask = value) = ifEqual then x.2.hostGoto target else x.2.hostNext

/-- What one event of the host does. -/
def hostEvent (op : HostOp) (s : State) : Host.Outcome State Fault Refusal :=
  match op with
  | .write r v => .next (hostWrite r v s)
  | .writeWhole => .next (hostWriteWhole s)
  | .writeBuf a b => hostWriteBuf a b s
  | .read r => .next (hostRead true r s)
  | .poll r => .next (hostRead false r s)
  | .reset => .next s.applyReset.hostNext
  | .branch e r mask value target => .next (hostBranch e r mask value target s)
  | .jump target => .next (s.hostGoto target)

/-- The host's move: its next event, or, past its last statement, nothing (R227). -/
def hostMove (s : State) : Host.Outcome State Fault Refusal :=
  match s.hostOp? with
  | some op => hostEvent op s
  | none => .next s

end Sys2Proof.Machine
end

