-- ==== Sys2Proof/Machine/Sequencer.lean ====
section
/-! DEFINITION. The coordinator as the block's sequencer (R225), and which agent moves next (DESIGN CHOICE, assumption 3). -/

namespace Sys2Proof.Machine

/-- The command that the latch holds, decoded (R71). -/
def State.latched (s : State) : Except Reject Instr := decodeFields s.latch.rsv s.latch.op s.latch.tgt

/-- The block's move in BUSY: the whole of the latched command (R15, R29), or BAD_OPCODE with the CMD word (R71, R212). -/
def blockMove (s : State) : Host.Outcome State Fault Refusal :=
  match s.latched with
  | .ok i => exec i s
  | .error _ => .next (s.raise .badOpcode s.cmd.toNat)

/-- Whether a host event comes before the running command completes: the latency of this launch is not spent, and the host has an
event left (R218, R257). -/
def State.hostFirst (s : State) : Bool := decide (s.delay ≠ 0) && s.hostOp?.isSome

/-- One step of the machine: in BUSY the host or the block, in the waiting states the host (R227). -/
def agentsMove (s : State) : Host.Outcome State Fault Refusal :=
  match s.st with
  | .busy => if s.hostFirst then hostMove { s with delay := s.delay - 1 } else blockMove s
  | .idle => hostMove s
  | .done => hostMove s
  | .fault _ => hostMove s

end Sys2Proof.Machine
end

