-- ==== Sys2Proof/Machine/Step.lean ====
section
/-! DEFINITION. One step of the machine, and the launch that puts a command where the next step runs it. -/

namespace Sys2Proof.Machine

/-- One step: an event of the host or the block's move (R218). -/
def step (s : State) : Host.Outcome State Fault Refusal := agentsMove s

/-- `s` just after a launch of the table's word `w`, with no host event to come before its completion, so that the next step runs
it (R31; DESIGN CHOICE, assumption 12). -/
def State.withFetchWord (s : State) (nbits w : Nat) : State := s.launchAfter (tableWord nbits w) 0

end Sys2Proof.Machine
end

