-- ==== Sys2Proof/Machine/HostProgram.lean ====
section
/-! DEFINITION. Host programs (R78, R79), their expansion to host events, the pseudo-instructions (R80) and the target selector
(R81). -/

namespace Sys2Proof.Machine

/-- A statement of a host program (R78 to R80). A register is given by its number (R20). -/
inductive HostStmt where
  | addr (pos : Nat)
  | getbit (pos : Nat)
  | count (t : Nat)
  | leadrun (t start window : Nat)
  | maxrun (t start window : Nat)
  | maxrunPar (t segmentCount : Nat)
  /-- `.buffer b0, ..., b(n-1)` -/
  | buffer (bytes : List Byte)
  | read (reg : Nat)
  | reset
  | label (name : String)
  | beq (reg mask value : Nat) (name : String)
  | bne (reg mask value : Nat) (name : String)
  | bra (name : String)
  | wait
  | maxrunWhole (t : Nat)
  deriving DecidableEq, Repr

/-- The value a command statement writes to CMD: (t << 8) | OP (R78). -/
def cmdValue (t op : Nat) : Nat := t <<< 8 ||| op

/-- The three writes of a command statement, in their order (R78). -/
def commandOps (t op a0 a1 : Nat) : List HostOp := [.write 1 a0, .write 2 a1, .write 0 (cmdValue t op)]

/-- The events of `.buffer` (R79): each byte in order, then BUF_LEN. R79 bars it while BUSY: with bytes it is then refused at the first
of them, and an empty one, which writes no byte, goes through as a plain BUF_LEN write of 0 (DESIGN CHOICE, assumption 11). -/
def bufferOps (bytes : List Byte) : List HostOp :=
  bytes.zipIdx.map (fun x => HostOp.writeBuf x.2 x.1) ++ [.write 3 bytes.length]

/-- The events of WAIT at the place `pc` (R80). -/
def waitOps (pc : Nat) : List HostOp :=
  [.poll 4, .branch true 4 0x7 0x2 (pc + 4), .branch true 4 0x7 0x4 (pc + 4), .jump pc]

/-- How many events a statement has. -/
def HostStmt.size : HostStmt → Nat
  | .addr _ => 3
  | .getbit _ => 3
  | .count _ => 3
  | .leadrun _ _ _ => 3
  | .maxrun _ _ _ => 3
  | .maxrunPar _ _ => 3
  | .buffer bytes => bytes.length + 1
  | .read _ => 1
  | .reset => 1
  | .label _ => 0
  | .beq _ _ _ _ => 1
  | .bne _ _ _ _ => 1
  | .bra _ => 1
  | .wait => 4
  | .maxrunWhole _ => 3

/-- The place of a label in the events of a program whose first statement stands at `pc`. -/
def labelPlace (name : String) : List HostStmt → Nat → Option Nat
  | [], _ => none
  | x :: xs, pc => if x = .label name then some pc else labelPlace name xs (pc + x.size)

/-- The events of one statement that stands at `pc` (R78 to R80), none where it names a label that `labels` lacks. -/
def HostStmt.expand (labels : String → Option Nat) (pc : Nat) : HostStmt → Option (List HostOp)
  | .addr pos => some (commandOps 0 1 pos 0)
  | .getbit pos => some (commandOps 0 2 pos 0)
  | .count t => some (commandOps t 3 0 0)
  | .leadrun t start window => some (commandOps t 4 start window)
  | .maxrun t start window => some (commandOps t 5 start window)
  | .maxrunPar t m => some (commandOps t 6 m 0)
  | .buffer bytes => some (bufferOps bytes)
  | .read r => some [.read r]
  | .reset => some [.reset]
  | .label _ => some []
  | .beq r mask value name => (labels name).map fun a => [.branch true r mask value a]
  | .bne r mask value name => (labels name).map fun a => [.branch false r mask value a]
  | .bra name => (labels name).map fun a => [.jump a]
  | .wait => some (waitOps pc)
  | .maxrunWhole t => some [.write 1 0, .writeWhole, .write 0 (cmdValue t 5)]

/-- The events of the statements that stand from `pc` on. -/
def expandFrom (labels : String → Option Nat) : List HostStmt → Nat → Option (List HostOp)
  | [], _ => some []
  | x :: xs, pc =>
    match x.expand labels pc, expandFrom labels xs (pc + x.size) with
    | some a, some b => some (a ++ b)
    | _, _ => none

/-- The host program of a list of statements, none where a branch names a label that it lacks. -/
def assemble (prog : List HostStmt) : Option (List HostOp) :=
  expandFrom (fun name => labelPlace name prog 0) prog 0

/-- The target selector of the host (R81): an exact, case-sensitive match. -/
def selectTarget (selector : String) : Nat :=
  if selector = "0" ∨ selector = "zero" ∨ selector = "zeros" then 0
  else if selector = "1" ∨ selector = "one" ∨ selector = "ones" then 1
  else 0

end Sys2Proof.Machine
end

