-- ==== Sys2Proof/Safety.lean ====
section
/-! DEFINITION. What counts as a good state and a safe run, in the terms that the claims use: the host's duties (R250), the
conditions under which a command runs to DONE (R214), the width invariants (R9, R215), and the end of a run (R259). -/

namespace Sys2Proof.Machine

/-- Host duty (b) of R250: the host has supplied every byte below L_LEN. -/
def State.supplied (s : State) : Prop := ∀ a, a < s.n → (Memory.read s.buf a).isSome = true

/-- The width bound of R215. -/
def State.bufFits (s : State) : Prop := s.bitlen < 2 ^ s.p.idxW

/-- bit(p) = target (R11). -/
def bitIs (m : Memory) (p target : Nat) : Prop := Memory.bitAt m p = some target

/-- LAUNCH_CHECKS (R213, R214) as the spec lists them, on the latch and the CMD register alone: the first check that fails. -/
def State.launchChecks (s : State) : Option Violation :=
  let op := s.latch.op.toNat
  if s.latch.rsv = true ∨ op < 1 ∨ 6 < op then some (.badOpcode, s.cmd.toNat)
  else if 2 ^ s.p.idxW ≤ 8 * s.latch.len then some (.badBuflen, s.latch.len)
  else if 3 ≤ op ∧ 1 < s.latch.tgt.toNat then some (.badTarget, s.latch.tgt.toNat)
  else if op = 6 ∧ s.latch.a0 = 0 then some (.badSegcount, 0)
  else if (op = 4 ∨ op = 5) ∧ 8 * s.latch.len ≤ s.latch.a0 then some (.badStart, s.latch.a0)
  else if (op = 1 ∨ op = 2) ∧ 8 * s.latch.len ≤ s.latch.a0 then some (.badPos, s.latch.a0)
  else if op = 6 ∧ 8 * s.latch.len = 0 then some (.badStart, 0)
  else none

/-- The same state with a latched start of 0 and a window of bitlen, for a command over the whole buffer (R184, R195, R198). -/
def State.wholeWindow (s : State) : State := { s with latch := { s.latch with a0 := 0, a1 := s.bitlen } }

/-- The host event that comes next writes `v` to CMD. -/
def State.cmdWriteNext (s : State) (v : Nat) : Prop := s.hostOp? = some (.write 0 v)

/-- The block moves next: it is BUSY, and no host event comes first. -/
def State.blockTurn (s : State) : Prop := s.st = .busy ∧ s.hostFirst = false

/-- The host moves next: the block waits, or a host event comes before its completion. -/
def State.hostTurn (s : State) : Prop := s.st ≠ .busy ∨ s.hostFirst = true

/-- The end of a run for one command (R259). -/
def State.ended (s : State) : Prop := s.st = .done ∨ ∃ c, s.st = .fault c

/-- The cursor invariant (R105). -/
structure Cursor.Inv (m : Memory) (n : Nat) (c : Cursor) : Prop where
  pos_eq : c.pos = 8 * c.idx + c.off
  pos_lt : c.pos < 8 * n
  idx_lt : c.idx < n
  off_le : c.off ≤ 7
  byte_eq : Memory.read m c.idx = some c.byte

/-- `k` calls of CURSOR_ADVANCE (R108). -/
def cursorAdvances (m : Memory) (n : Nat) : (k : Nat) → Cursor → Host.Outcome Cursor Fault Refusal
  | 0, c => .next c
  | k + 1, c => andThen (cursorAdvance m n c) (cursorAdvances m n k)

/-- A window run (R153): a non-empty interval [j0, j1) of scan positions that equal the target, maximal in the window of `w` bits
from `s`. -/
structure WindowRun (m : Memory) (bitlen target s w j0 j1 : Nat) : Prop where
  nonempty : j0 < j1
  inside : j1 ≤ w
  equal : ∀ j, j0 ≤ j → j < j1 → bitIs m ((s + j) % bitlen) target
  left : j0 = 0 ∨ ¬ bitIs m ((s + (j0 - 1)) % bitlen) target
  right : j1 = w ∨ ¬ bitIs m ((s + j1) % bitlen) target

/-- The window run of the greatest length, and of that length the one with the smallest j0 (R153). -/
def FirstLongest (m : Memory) (bitlen target s w j0 j1 : Nat) : Prop :=
  WindowRun m bitlen target s w j0 j1 ∧
    ∀ i0 i1, WindowRun m bitlen target s w i0 i1 → i1 - i0 ≤ j1 - j0 ∧ (i1 - i0 = j1 - j0 → j0 ≤ i0)

/-- The result of MAXRUN_CORE(s, w) in closed form (R153). -/
def ClosedForm (m : Memory) (bitlen target s w : Nat) (r : Run) : Prop :=
  (∃ j0 j1, FirstLongest m bitlen target s w j0 j1 ∧ r = ⟨j1 - j0, (s + j0) % bitlen⟩) ∨
    ((¬ ∃ j0 j1, WindowRun m bitlen target s w j0 j1) ∧ r = ⟨0, s⟩)

/-- The host-visible registers of width IDX_W hold values of that width (R20). -/
structure State.VisibleFit (s : State) : Prop where
  arg0 : s.arg0 < 2 ^ s.p.idxW
  arg1 : s.arg1 < 2 ^ s.p.idxW
  bufLen : s.bufLen < 2 ^ s.p.idxW
  finfo : s.finfo < 2 ^ s.p.idxW
  res0 : s.res0 < 2 ^ s.p.idxW
  res1 : s.res1 < 2 ^ s.p.idxW
  res2 : s.res2 < 2 ^ s.p.idxW

/-- The latched operands hold values of IDX_W bits (R32). -/
structure State.LatchFit (s : State) : Prop where
  a0 : s.latch.a0 < 2 ^ s.p.idxW
  a1 : s.latch.a1 < 2 ^ s.p.idxW
  len : s.latch.len < 2 ^ s.p.idxW

/-- The invariant of the host-visible state: the buffer is in its canonical form, and the registers and the latch have their
widths. -/
structure State.Inv (s : State) : Prop where
  buf : Memory.wf s.buf
  visible : s.VisibleFit
  latch : s.LatchFit

/-- Scan registers of width IDX_W, with an offset of three bits (R33, R34). -/
structure ScanRegs.Fit (p : Params) (r : ScanRegs) : Prop where
  idx : r.cursor.idx < 2 ^ p.idxW
  off : r.cursor.off ≤ 7
  pos : r.cursor.pos < 2 ^ p.idxW
  k : r.k < 2 ^ p.idxW
  curLen : r.cur.len < 2 ^ p.idxW
  curStart : r.cur.start < 2 ^ p.idxW
  bestLen : r.best.len < 2 ^ p.idxW
  bestStart : r.best.start < 2 ^ p.idxW

/-- Segment state and worker files of their widths, and NWORKERS workers (R35, R36). -/
structure Par.Fit (p : Params) (q : Par) : Prop where
  nseg : q.nseg < 2 ^ p.idxW
  seg : ∀ x ∈ q.seg, x.start < 2 ^ p.idxW ∧ x.length < 2 ^ p.idxW
  sr : ∀ x ∈ q.sr, x.run.len < 2 ^ p.idxW ∧ x.run.start < 2 ^ p.idxW
  join : q.join < 2 ^ p.idxW
  regs : ∀ x ∈ q.workers, x.regs.Fit p
  assigned : ∀ x ∈ q.workers, ∀ i, x.assigned = some i → i < 2 ^ p.idxW
  count : q.workers.length = p.nWorkers

/-- Every internal register holds a value of its width (R34, R35, R36, R215). -/
structure State.InternalsFit (s : State) : Prop where
  scan : s.scan.Fit s.p
  cnt : s.cnt < 2 ^ s.p.idxW
  lrN : s.lrN < 2 ^ s.p.idxW
  par : s.par.Fit s.p

/-- While a command runs, the latch holds the fields of the CMD register (R31, R32). -/
def State.LatchOfCmd (s : State) : Prop :=
  s.st = .busy →
    s.latch.op = cmdOp s.cmd ∧ s.latch.rsv = cmdReserved s.cmd ∧ s.latch.tgt = cmdTarget s.cmd

/-- The Runs of the segments of PARTITION(n, m), each scanned alone by MAXRUN_CORE, in index order (R180). -/
def SegmentRuns (m : Memory) (n target count : Nat) (rs : List Run) : Prop :=
  rs.length = count ∧
    ∀ i, i < count →
      ∃ r, maxrunCore m n target (segmentOf n count i).start (segmentOf n count i).length = .next r ∧ rs[i]? = some r.best

/-- The fold of Runs in index order (R191). -/
def foldRuns : List Run → Run
  | [] => ⟨0, 0⟩
  | r :: rs => rs.foldl keepFirstMax r

end Sys2Proof.Machine
end

