-- ==== Sys2Proof/Certificates/Slice0/Obligations.lean ====
section
/-! DEFINITION. The statements about the model, for the provers. Each docstring names the rule it formalises. -/

open Sys2Proof Sys2Proof.Machine

/-! ## Encoding -/

/-- Decoding the word of an instruction gives the instruction back, with every TARGET (R70, R71, R72). -/
def Obligations.DecodeOfEncode : Prop :=
  ∀ i : Instr, decode (encode i) = .ok i

/-- A word that decodes is the word of what it decodes to: no bit of it is dropped (R70, R71, R72). -/
def Obligations.EncodeOfDecode : Prop :=
  ∀ (w : Word) (i : Instr), decode w = .ok i → encode i = w

/-- Words of R72, written out bit by bit, decode to the commands they stand for, and reserved words to none (R72, R73). -/
def Obligations.DecodesWordsOfTheMap : Prop :=
  decode 0b00000000000000000000011100000001#32 = .ok (.addr 7) ∧
  decode 0b00000000000000000000000000000010#32 = .ok (.getbit 0) ∧
  decode 0b00000000000000000000000100000011#32 = .ok (.count 1) ∧
  decode 0b00000000000000001111111100000100#32 = .ok (.leadrun 255) ∧
  decode 0b00000000000000000000000100000101#32 = .ok (.maxrun 1) ∧
  decode 0b00000000000000000000001000000110#32 = .ok (.maxrunPar 2) ∧
  decode 0b00000000000000000000000000000111#32 = .error .reservedOpcode ∧
  decode 0b00000000000000010000000100000011#32 = .error .reservedBits

/-- Exactly the words with OP 0 or 7..15, or a nonzero RSV0 or RSV1, select no operation (R71, R73). -/
def Obligations.ReservedWordsSelectNothing : Prop :=
  ∀ w : Word,
    (∀ i, decode w ≠ .ok i) ↔
      ((w >>> 4) &&& 0xF#32 ≠ 0 ∨ w >>> 16 ≠ 0 ∨ w &&& 0xF#32 = 0 ∨ 7 ≤ (w &&& 0xF#32).toNat)

/-! ## The step -/

/-- In BUSY, with no host event first, a step is the meaning of the latched command; otherwise it is the host's move; and the word
that `withFetchWord` places is the command of the very next step (R15, R31, R71). -/
def Obligations.StepRunsLatchedCommand : Prop :=
  (∀ (s : State) (i : Instr), s.blockTurn → s.latched = .ok i → step s = exec i s) ∧
  (∀ s : State, s.st = .busy → s.hostFirst = true → step s = hostMove { s with delay := s.delay - 1 }) ∧
  (∀ s : State, s.st ≠ .busy → step s = hostMove s) ∧
  (∀ (s : State) (nbits w : Nat) (i : Instr),
    decode (tableWord nbits w) = .ok i → step (s.withFetchWord nbits w) = exec i (s.withFetchWord nbits w))

/-- The launch checks run in the order of R214, the first that fails is the only fault reported, and a command that fails none of
them ends in DONE when it ends. -/
def Obligations.LaunchChecksInOrder : Prop :=
  ∀ s : State, s.blockTurn →
    (∀ v, s.launchChecks = some v → step s = .next (s.raise v.1 v.2)) ∧
    (s.launchChecks = none → ∀ t, step s = .next t → t.st = .done)

/-- Fault entry (R211): FAULT with its code in STATUS, FINFO the value where it fits, every worker stopped and its slot discarded,
and RES0..RES2 undefined; CMD, ARG0, ARG1, BUF_LEN and the buffer unchanged (R210). That a fault clears every VALID bit, and JOIN with
them, is the model's reading of R211 and R35 (DESIGN CHOICE and DEDUCED, assumption 23). Where the value does not fit IDX_W bits, FINFO is a
free value of that width (the model's choice, assumption 8). -/
def Obligations.FaultEntry : Prop :=
  ∀ (s : State) (c : FaultCode) (info : Nat),
    let t := s.raise c info
    t.st = .fault c ∧
    t.st.status.toNat = c.number.toNat * 2 ^ 8 + 4 ∧
    (info < 2 ^ s.p.idxW → t.finfoRead = info) ∧
    t.finfoRead < 2 ^ s.p.idxW ∧
    (∀ x ∈ t.par.workers, x.assigned = none) ∧
    (∀ x ∈ t.par.sr, x.valid = false) ∧ t.par.join = 0 ∧
    t.st.resDefined = false ∧
    t.cmd = s.cmd ∧ t.arg0 = s.arg0 ∧ t.arg1 = s.arg1 ∧ t.bufLen = s.bufLen ∧ t.buf = s.buf

/-- STATUS (R24) in every state, and the numbers of the fault codes (R212): its low bits are one of the four encodings, FCODE is 0
unless FAULT = 1, and every other bit reads 0. -/
def Obligations.StatusFields : Prop :=
  (∀ st : BlockState,
    (st.status &&& 0x7#32 = 0#32 ∧ st = .idle ∨ st.status &&& 0x7#32 = 1#32 ∧ st = .busy ∨
      st.status &&& 0x7#32 = 2#32 ∧ st = .done ∨ st.status &&& 0x7#32 = 4#32 ∧ ∃ c, st = .fault c) ∧
    st.status &&& 0xFFFFF0F8#32 = 0#32 ∧
    ((∀ c, st ≠ .fault c) → st.status &&& 0xF00#32 = 0#32) ∧
    (∀ c, st = .fault c → (st.status >>> 8).toNat = c.number.toNat)) ∧
  FaultCode.badOpcode.number = 1#4 ∧ FaultCode.badTarget.number = 2#4 ∧ FaultCode.badBuflen.number = 3#4 ∧
  FaultCode.badSegcount.number = 4#4 ∧ FaultCode.badStart.number = 5#4 ∧ FaultCode.badPos.number = 6#4

/-- What a host read returns (R20, R25, R26): the registers by number, FINFO 0 outside FAULT, RES0..RES2 their values in IDLE and DONE
and some value of IDX_W bits in BUSY and FAULT, and 0 for a number above 8. A read changes nothing but the model's count of draws. -/
def Obligations.HostReadsRegisters : Prop :=
  ∀ s : State,
    s.readReg 0 = (s.cmd.toNat, s) ∧ s.readReg 1 = (s.arg0, s) ∧ s.readReg 2 = (s.arg1, s) ∧ s.readReg 3 = (s.bufLen, s) ∧
    s.readReg 4 = (s.st.status.toNat, s) ∧
    (∀ c, s.st = .fault c → s.readReg 5 = (s.finfo, s)) ∧
    ((∀ c, s.st ≠ .fault c) → s.readReg 5 = (0, s)) ∧
    (s.st = .idle ∨ s.st = .done →
      s.readReg 6 = (s.res0, s) ∧ s.readReg 7 = (s.res1, s) ∧ s.readReg 8 = (s.res2, s)) ∧
    (s.st ≠ .idle → s.st ≠ .done → ∀ r, 6 ≤ r → r ≤ 8 →
      (s.readReg r).1 < 2 ^ s.p.idxW ∧ (s.readReg r).2 = { s with draws := s.draws + 1 }) ∧
    (∀ r, 8 < r → s.readReg r = (0, s))

/-- What a host write does besides launching (R20, R31): ARG0, ARG1 and BUF_LEN take the value in any state and leave the latch alone; a
write to STATUS, FINFO, RES0..RES2 or a number above 8 has no effect; a CMD write has none in BUSY and FAULT. The count of draws is the
model's own; that a value too wide for the register is replaced by a free one is the model's choice (DESIGN CHOICE, assumption 9). -/
def Obligations.HostWritesRegisters : Prop :=
  ∀ (s : State) (v : Nat),
    (∃ x y z, x < 2 ^ s.p.idxW ∧ y < 2 ^ s.p.idxW ∧ z < 2 ^ s.p.idxW ∧
      (v < 2 ^ s.p.idxW → x = v ∧ y = v ∧ z = v) ∧
      s.writeReg 1 v = { s with arg0 := x, draws := s.draws + 1 } ∧
      s.writeReg 2 v = { s with arg1 := y, draws := s.draws + 1 } ∧
      s.writeReg 3 v = { s with bufLen := z, draws := s.draws + 1 }) ∧
    (∀ r, 4 ≤ r → s.writeReg r v = s) ∧
    (s.st ≠ .idle → s.st ≠ .done → s.writeReg 0 v = s)

/-- A CMD write of a 32-bit word in IDLE or DONE launches (R31): CMD and the latch take the word and the operand registers, the state is BUSY with
STATUS = 1 and FINFO reading 0, and the registers, the buffer and the internal scan state are as before. -/
def Obligations.CmdWriteLaunches : Prop :=
  ∀ (s : State) (v : Nat), v < 2 ^ 32 → s.cmdWriteNext v → s.st = .idle ∨ s.st = .done →
    ∃ t, step s = .next t ∧
      t.cmd = BitVec.ofNat 32 v ∧
      t.latch.op.toNat = v % 16 ∧
      (t.latch.rsv = true ↔ v / 16 % 16 ≠ 0 ∨ v / 2 ^ 16 % 2 ^ 16 ≠ 0) ∧
      t.latch.tgt.toNat = v / 256 % 256 ∧
      t.latch.a0 = s.arg0 ∧ t.latch.a1 = s.arg1 ∧ t.latch.len = s.bufLen ∧
      t.st = .busy ∧ t.st.status = 1#32 ∧ t.finfoRead = 0 ∧
      t.p = s.p ∧ t.arg0 = s.arg0 ∧ t.arg1 = s.arg1 ∧ t.bufLen = s.bufLen ∧ t.buf = s.buf ∧
      t.res0 = s.res0 ∧ t.res1 = s.res1 ∧ t.res2 = s.res2 ∧
      t.scan = s.scan ∧ t.cnt = s.cnt ∧ t.lrN = s.lrN ∧ t.par = s.par

/-- Reset as a host event (R240), in any state: IDLE, STATUS 0, every host-visible register 0, RES0..RES2 reading 0, and the buffer
unchanged. -/
def Obligations.ResetEvent : Prop :=
  ∀ s : State, s.hostOp? = some .reset → s.hostTurn →
    ∃ t, step s = .next t ∧
      t.st = .idle ∧ t.st.status = 0#32 ∧
      (∀ r, (t.readReg r).1 = 0) ∧
      t.buf = s.buf ∧ t.p = s.p

/-- The state after reset (R38): IDLE, and every host-visible register reads 0, for every choice of the parameters. That no byte of the
buffer is supplied and the host has no program is the model's choice (assumptions 3, 10). -/
def Obligations.ResetState : Prop :=
  ∀ p : Params,
    (State.resetOf p).st = .idle ∧ (∀ r, ((State.resetOf p).readReg r).1 = 0) ∧
    (State.resetOf p).p = p ∧ (∀ a, Memory.read (State.resetOf p).buf a = none) ∧
    step (State.resetOf p) = .next (State.resetOf p)

/-- FAULT is sticky (R220): a step leaves FAULT only by reset; otherwise FCODE and FINFO keep their values, and a CMD write changes
neither CMD nor the latch. -/
def Obligations.FaultIsSticky : Prop :=
  ∀ (s t : State) (c : FaultCode), s.st = .fault c → step s = .next t →
    (t.st = .fault c ∧ t.finfoRead = s.finfoRead ∧ t.cmd = s.cmd ∧ t.latch = s.latch) ∨
      (s.hostOp? = some .reset ∧ t.st = .idle)

/-- The transitions of the block state (R29), and no others. -/
def Obligations.BlockStateTransitions : Prop :=
  (∀ s t : State, step s = .next t →
    t.st = s.st ∨
    ((s.st = .idle ∨ s.st = .done) ∧ (∃ v, s.cmdWriteNext v) ∧ t.st = .busy) ∨
    (s.blockTurn ∧ (t.st = .done ∨ ∃ c, t.st = .fault c)) ∨
    (s.hostOp? = some .reset ∧ t.st = .idle)) ∧
  (∀ (s : State) (v : Nat), s.cmdWriteNext v → s.hostTurn →
    ∃ t, step s = .next t ∧ (s.st = .idle ∨ s.st = .done → t.st = .busy) ∧ (∀ c, s.st = .fault c → t.st = .fault c)) ∧
  (∀ s t : State, s.blockTurn → step s = .next t →
    (s.launchChecks = none → t.st = .done) ∧ ∀ v, s.launchChecks = some v → t.st = .fault v.1) ∧
  (∀ s : State, s.hostTurn → s.hostOp? = some .reset → ∃ t, step s = .next t ∧ t.st = .idle)

/-- A running command ends (R30, R256): each step in BUSY ends it, or is a host event that brings its completion nearer. -/
def Obligations.BusyEnds : Prop :=
  ∀ s t : State, s.st = .busy → step s = .next t → t.ended ∨ t.st = .idle ∨ (t.st = .busy ∧ t.delay < s.delay)

/-- While a command runs, host events change neither the command nor what it works on (R31, R55, R248): the latch, CMD, the buffer, the
internal registers and the stored results stay as they are. -/
def Obligations.BusyKeepsCommandAndBuffer : Prop :=
  ∀ s t : State, s.st = .busy → step s = .next t → t.st = .busy →
    t.latch = s.latch ∧ t.cmd = s.cmd ∧ t.buf = s.buf ∧
    t.scan = s.scan ∧ t.cnt = s.cnt ∧ t.lrN = s.lrN ∧ t.par = s.par ∧
    t.res0 = s.res0 ∧ t.res1 = s.res1 ∧ t.res2 = s.res2

/-- The block never writes the buffer (R50): a step changes it only by a buffer write of the host, which it has only while the block is
not BUSY (R55), and then in that one byte. -/
def Obligations.BufferWrittenByHostOnly : Prop :=
  ∀ s t : State, step s = .next t →
    (∀ a, Memory.read t.buf a = Memory.read s.buf a) ∨
    (s.st ≠ .busy ∧ ∃ a b, s.hostOp? = some (.writeBuf a b) ∧
      Memory.read t.buf a = some b ∧ ∀ a', a' ≠ a → Memory.read t.buf a' = Memory.read s.buf a')

/-- A buffer write of the host (R50, R55, R79): while the block waits it is done, and while a command runs the model has no such
move (93 item 14). -/
def Obligations.BufferWriteOutsideBusy : Prop :=
  ∀ (s : State) (a : Nat) (b : Byte), s.hostOp? = some (.writeBuf a b) → s.hostTurn →
    (s.st ≠ .busy → ∃ t, step s = .next t ∧ Memory.read t.buf a = some b ∧ t.st = s.st ∧ t.bufLen = s.bufLen) ∧
    (s.st = .busy → step s = .refused (.bufferWriteWhileBusy a))

/-! ## Frames -/

/-- What every command leaves unchanged, whether it completes or faults (R28, R31, R50, R61, R210): CMD, ARG0, ARG1, BUF_LEN, the latch, the
parameters and every byte of the buffer, and the model's own fields host and delay (DESIGN CHOICE, assumption 3). It ends in DONE or
FAULT. -/
def Obligations.CommandFrame : Prop :=
  ∀ (i : Instr) (s t : State), exec i s = .next t →
    t.p = s.p ∧ t.cmd = s.cmd ∧ t.arg0 = s.arg0 ∧ t.arg1 = s.arg1 ∧ t.bufLen = s.bufLen ∧ t.latch = s.latch ∧
    t.host = s.host ∧ t.delay = s.delay ∧ (∀ a, Memory.read t.buf a = Memory.read s.buf a) ∧ t.ended

/-- What each command leaves unchanged of the internal registers and of FINFO when it completes, as its rule writes the registers of
R33 to R36: ADDR and GETBIT all of them (R100, R101); COUNT all but CNT and K (R120); LEADRUN all but the cursor, K and LR_N (R130);
MAXRUN all but the coordinator's scan registers (R150); MAXRUN_PAR all but the segment state and the workers (R180). That ADDR and GETBIT
write no internal register, and that COUNT sets K to bitlen and leaves the cursor alone, is the model's reading (DEDUCED, assumption 13).
The schedule is the model's own field: no command changes it but MAXRUN_PAR, which takes from its front (DESIGN CHOICE,
assumption 4). -/
def Obligations.CompletedCommandFrame : Prop :=
  ∀ (x : Byte) (s t : State), t.st = .done →
    ((exec (.addr x) s = .next t ∨ exec (.getbit x) s = .next t) →
      t.scan = s.scan ∧ t.cnt = s.cnt ∧ t.lrN = s.lrN ∧ t.par = s.par ∧ t.sched = s.sched ∧ t.finfo = s.finfo) ∧
    (exec (.count x) s = .next t →
      t.scan = { s.scan with k := s.bitlen } ∧ t.lrN = s.lrN ∧ t.par = s.par ∧ t.sched = s.sched ∧ t.finfo = s.finfo) ∧
    (exec (.leadrun x) s = .next t →
      t.scan.cur = s.scan.cur ∧ t.scan.best = s.scan.best ∧ t.cnt = s.cnt ∧ t.par = s.par ∧ t.sched = s.sched ∧
        t.finfo = s.finfo) ∧
    (exec (.maxrun x) s = .next t →
      t.cnt = s.cnt ∧ t.lrN = s.lrN ∧ t.par = s.par ∧ t.sched = s.sched ∧ t.finfo = s.finfo) ∧
    (exec (.maxrunPar x) s = .next t →
      t.scan = s.scan ∧ t.cnt = s.cnt ∧ t.lrN = s.lrN ∧ t.finfo = s.finfo ∧ ∃ k, t.sched = s.sched.drop k)

/-- A faulting command writes no result and runs no step (R210, R211): the coordinator's registers are unchanged, and so are RES0..RES2
as stored, which no read in FAULT shows (DESIGN CHOICE, assumption 5), and the schedule, the model's own field (DESIGN CHOICE,
assumption 4). Of the segment state only the workers' ASSIGNED, the VALID bits and JOIN are cleared (the model's reading of R211 and
R35: DESIGN CHOICE and DEDUCED, assumption 23). -/
def Obligations.FaultingCommandFrame : Prop :=
  ∀ (i : Instr) (s t : State) (c : FaultCode), exec i s = .next t → t.st = .fault c →
    t.res0 = s.res0 ∧ t.res1 = s.res1 ∧ t.res2 = s.res2 ∧ t.scan = s.scan ∧ t.cnt = s.cnt ∧ t.lrN = s.lrN ∧
    t.par = s.par.stop ∧ t.sched = s.sched

/-! ## Results -/

/-- ADDR (R100) completes for every position below bitlen, with every TARGET. Its byte is RES0 where it fits IDX_W bits; an IDX_W below 8
leaves a free value for a wider byte (the model's choice, assumption 8). -/
def Obligations.AddrCompletes : Prop :=
  ∀ (x : Byte) (s : State) (b : Byte), s.bufFits → s.pos < s.bitlen → Memory.read s.buf (s.pos / 8) = some b →
    ∃ t, exec (.addr x) s = .next t ∧ t.st = .done ∧
      (b.toNat < 2 ^ s.p.idxW → t.res0 = b.toNat) ∧ t.res0 < 2 ^ s.p.idxW ∧
      t.res1 = s.pos / 8 ∧ t.res2 = s.pos % 8

/-- GETBIT (R101) completes for every position below bitlen, with every TARGET, and returns bit(pos) (R102). -/
def Obligations.GetbitCompletes : Prop :=
  ∀ (x : Byte) (s : State) (v : Nat), s.bufFits → s.pos < s.bitlen → Memory.bitAt s.buf s.pos = some v →
    ∃ t, exec (.getbit x) s = .next t ∧ t.st = .done ∧
      t.res0 = v ∧ (t.res0 = 0 ∨ t.res0 = 1) ∧ t.res1 = 0 ∧ t.res2 = 0

/-- ADDR and GETBIT agree (R103), for an IDX_W that holds a byte. -/
def Obligations.AddrAndGetbitAgree : Prop :=
  ∀ (x y : Byte) (s t u : State), 8 ≤ s.p.idxW → exec (.addr x) s = .next t → exec (.getbit y) s = .next u →
    t.st = .done → u.st = .done →
    u.res0 = (t.res0 >>> (7 - t.res2)) &&& 1 ∧ s.pos = 8 * t.res1 + t.res2

/-- COUNT (R120) completes and returns the number of bit positions that hold the target (R121); an empty buffer gives 0. That CNT then
holds that number too is the model's reading of R34 (DEDUCED, assumption 13). -/
def Obligations.CountCompletes : Prop :=
  ∀ (x : Byte) (s : State), s.bufFits → x.toNat ≤ 1 → s.supplied →
    ∃ t, exec (.count x) s = .next t ∧ t.st = .done ∧
      t.res0 = ((List.range s.bitlen).filter fun p => Memory.bitAt s.buf p == some x.toNat).length ∧
      t.res1 = 0 ∧ t.res2 = 0 ∧ t.cnt = t.res0

/-- COUNT of 0 and COUNT of 1 add up to bitlen (R122). -/
def Obligations.CountsAddUpToBitlen : Prop :=
  ∀ s : State, s.bufFits → s.supplied →
    ∃ t u, exec (.count 0) s = .next t ∧ exec (.count 1) s = .next u ∧ t.st = .done ∧ u.st = .done ∧
      t.res0 + u.res0 = s.bitlen ∧ s.bitlen = 8 * s.n

/-- LEADRUN (R130) completes with the closed form of R131: the largest L up to the window such that the L bits from start on, around
the end of the buffer, equal the target. -/
def Obligations.LeadrunClosedForm : Prop :=
  ∀ (x : Byte) (s : State), s.bufFits → x.toNat ≤ 1 → s.start < s.bitlen → s.window < 2 ^ s.p.idxW → s.supplied →
    ∃ t, exec (.leadrun x) s = .next t ∧ t.st = .done ∧
      IsGreatest
        { l : Nat | l ≤ s.window ∧ ∀ j, j < l → bitIs s.buf ((s.start + j) % s.bitlen) x.toNat } t.res0 ∧
      t.res1 = 0 ∧ t.res2 = 0 ∧ t.lrN = t.res0

/-- The bounds of LEADRUN (R132). -/
def Obligations.LeadrunBounds : Prop :=
  ∀ (x : Byte) (s t : State), s.window < 2 ^ s.p.idxW → exec (.leadrun x) s = .next t → t.st = .done →
    t.res0 ≤ s.window ∧
    (t.res0 = s.window ↔ ∀ j, j < s.window → bitIs s.buf ((s.start + j) % s.bitlen) x.toNat) ∧
    (t.res0 < s.window ↔
      ∃ j, j < s.window ∧ ¬ bitIs s.buf ((s.start + j) % s.bitlen) x.toNat ∧
        (∀ i, i < j → bitIs s.buf ((s.start + i) % s.bitlen) x.toNat) ∧ t.res0 = j)

/-- Windows longer than the buffer (R133): with a bit that differs the length stays below bitlen, and a length of bitlen or more is the
window, over a buffer whose every bit equals the target. -/
def Obligations.LeadrunLongWindow : Prop :=
  ∀ (x : Byte) (s t : State), s.window < 2 ^ s.p.idxW → s.supplied → exec (.leadrun x) s = .next t → t.st = .done →
    ((∃ p, p < s.bitlen ∧ ¬ bitIs s.buf p x.toNat) → t.res0 < s.bitlen) ∧
    (s.bitlen ≤ t.res0 → (∀ p, p < s.bitlen → bitIs s.buf p x.toNat) ∧ t.res0 = s.window)

/-- MAXRUN (R150) completes with the closed form of R153: the longest window run, the first of that length in scan order, and
(0, start) where the window has none. -/
def Obligations.MaxrunClosedForm : Prop :=
  ∀ (x : Byte) (s : State), s.bufFits → x.toNat ≤ 1 → s.start < s.bitlen → s.window < 2 ^ s.p.idxW → s.supplied →
    ∃ t, exec (.maxrun x) s = .next t ∧ t.st = .done ∧
      ClosedForm s.buf s.bitlen x.toNat s.start s.window ⟨t.res0, t.res1⟩ ∧ t.res2 = 0

/-- The start that MAXRUN reports is normalized (R158): below bitlen, on a target bit where the length is not 0; after a mismatch at the
last bit of the buffer the tentative start is 0. -/
def Obligations.MaxrunStartNormalized : Prop :=
  (∀ (x : Byte) (s t : State), s.window < 2 ^ s.p.idxW → exec (.maxrun x) s = .next t → t.st = .done →
    t.res1 < s.bitlen ∧ (0 < t.res0 → bitIs s.buf t.res1 x.toNat)) ∧
  (∀ (n target : Nat) (r : ScanRegs), r.cursor.bit ≠ target → r.cursor.pos + 1 = 8 * n →
    (coreCompare n target r).cur = ⟨0, 0⟩)

/-- MAXRUN and LEADRUN on the same operands (R159). -/
def Obligations.MaxrunAtLeastLeadrun : Prop :=
  ∀ (x : Byte) (s t u : State), s.window < 2 ^ s.p.idxW → exec (.maxrun x) s = .next t → exec (.leadrun x) s = .next u →
    t.st = .done → u.st = .done →
    t.res0 ≤ s.window ∧ u.res0 ≤ t.res0 ∧ (t.res0 = u.res0 → 0 < u.res0 → t.res1 = s.start)

/-- MAXRUN over a buffer whose every bit equals the target gives (window, start); with a bit that differs every window run is shorter than
bitlen, and so is the result (R160). -/
def Obligations.MaxrunLongWindow : Prop :=
  ∀ (x : Byte) (s t : State), s.window < 2 ^ s.p.idxW → s.supplied → exec (.maxrun x) s = .next t → t.st = .done →
    ((∀ p, p < s.bitlen → bitIs s.buf p x.toNat) → t.res0 = s.window ∧ t.res1 = s.start) ∧
    ((∃ p, p < s.bitlen ∧ ¬ bitIs s.buf p x.toNat) →
      t.res0 < s.bitlen ∧
      ∀ j0 j1, WindowRun s.buf s.bitlen x.toNat s.start s.window j0 j1 → j1 - j0 < s.bitlen)

/-! ## The cursor -/

/-- CURSOR_INIT and CURSOR_ADVANCE keep the cursor invariant (R105), under which the cursor's bit is bit(CUR_POS) (R107). -/
def Obligations.CursorInvariantKept : Prop :=
  (∀ (m : Memory) (n s : Nat) (c : Cursor), s < 8 * n → cursorInit m n s = .next c → c.Inv m n ∧ c.pos = s) ∧
  (∀ (m : Memory) (n : Nat) (c d : Cursor), c.Inv m n → cursorAdvance m n c = .next d → d.Inv m n) ∧
  (∀ (m : Memory) (n : Nat) (c : Cursor), c.Inv m n → bitIs m c.pos c.bit)

/-- The cursor position law (R108): after CURSOR_INIT(s) and k advances the cursor is at (s + k) mod bitlen, and its bit is the bit
there. -/
def Obligations.CursorPositionLaw : Prop :=
  ∀ (m : Memory) (n s k : Nat), s < 8 * n → (∀ a, a < n → (Memory.read m a).isSome = true) →
    ∃ c d, cursorInit m n s = .next c ∧ cursorAdvances m n k c = .next d ∧
      d.pos = (s + k) % (8 * n) ∧ bitIs m ((s + k) % (8 * n)) d.bit

/-! ## MAXRUN_PAR -/

/-- The partition is exact for 1 <= m <= n (R183). -/
def Obligations.PartitionExact : Prop :=
  ∀ n m : Nat, 1 ≤ m → m ≤ n →
    (partition n m).length = m ∧
    (∀ i, i < m → (partition n m)[i]? = some (segmentOf n m i) ∧ 0 < (segmentOf n m i).length) ∧
    (∀ i, i + 1 < m →
      (segmentOf n m i).start + (segmentOf n m i).length = (segmentOf n m (i + 1)).start ∧
      (segmentOf n m i).length = 8 * (n / m)) ∧
    (∀ i j, i < j → j < m → (segmentOf n m i).start + (segmentOf n m i).length ≤ (segmentOf n m j).start) ∧
    (∀ p, p < 8 * n ↔
      ∃ i, i < m ∧ (segmentOf n m i).start ≤ p ∧ p < (segmentOf n m i).start + (segmentOf n m i).length) ∧
    (segmentOf n m (m - 1)).length = 8 * (n / m + n % m) ∧
    (segmentOf n m (m - 1)).length ≤ 8 * (n / m + m - 1)

/-- Every segment lies within the buffer, its start below bitlen where there is one; on an empty buffer MAXRUN_PAR faults BAD_START before
the fan-out (R185). -/
def Obligations.SegmentsInsideBuffer : Prop :=
  (∀ n m i : Nat, i < m →
    (segmentOf n m i).start + (segmentOf n m i).length ≤ 8 * n ∧
    (0 < n → (segmentOf n m i).start < 8 * n) ∧ (n = 0 → (segmentOf n m i).start = 0)) ∧
  (∀ (x : Byte) (s : State), s.bitlen = 0 → x.toNat ≤ 1 → s.segCount ≠ 0 →
    exec (.maxrunPar x) s = .next (s.raise .badStart 0))

/-- MAXRUN_PAR (R180) completes, for every schedule of the workers: its result is the fold, in index order, of the Runs that MAXRUN_CORE
finds in the segments of the partition (R182, R187, R191). -/
def Obligations.MaxrunParFoldsSegmentRuns : Prop :=
  ∀ (x : Byte) (s : State), s.bufFits → x.toNat ≤ 1 → s.segCount ≠ 0 → s.n ≠ 0 → s.supplied →
    ∃ t rs, exec (.maxrunPar x) s = .next t ∧ t.st = .done ∧
      SegmentRuns s.buf s.n x.toNat s.segCount rs ∧
      t.res0 = (foldRuns rs).len ∧ t.res1 = (foldRuns rs).start ∧ t.res2 = 0 ∧
      t.par.nseg = s.segCount ∧ t.par.seg = partition s.n s.segCount ∧ t.par.join = s.segCount ∧
      t.par.sr = rs.map (fun r => ⟨r, true⟩) ∧ (∀ w ∈ t.par.workers, w.assigned = none)

/-- The result and the slots depend on the buffer, the target and the segments alone: not on NWORKERS, on the assignment or on the order
of the worker steps; and each slot depends on the buffer, the target and its own segment alone, whatever the other segments are
(R196). -/
def Obligations.MaxrunParIgnoresSchedule : Prop :=
  ∀ (x : Byte) (s u t v : State), s.buf = u.buf → s.latch.len = u.latch.len →
    exec (.maxrunPar x) s = .next t → exec (.maxrunPar x) u = .next v → t.st = .done → v.st = .done →
    (s.latch.a0 = u.latch.a0 → t.res0 = v.res0 ∧ t.res1 = v.res1 ∧ t.par.sr = v.par.sr) ∧
    (∀ (i j : Nat) (g : Segment), t.par.seg[i]? = some g → v.par.seg[j]? = some g → t.par.sr[i]? = v.par.sr[j]?)

/-- The result is the slot of the smallest index among those of the greatest length, and (0, 0) where every slot has length 0 (R193). -/
def Obligations.MaxrunParPicksFirstLongest : Prop :=
  ∀ (x : Byte) (s t : State), exec (.maxrunPar x) s = .next t → t.st = .done →
    (∃ (i : Nat) (y : Slot), t.par.sr[i]? = some y ∧ t.res0 = y.run.len ∧ t.res1 = y.run.start ∧
      ∀ (j : Nat) (z : Slot), t.par.sr[j]? = some z → z.run.len ≤ y.run.len ∧ (z.run.len = y.run.len → i ≤ j)) ∧
    ((∀ y ∈ t.par.sr, y.run.len = 0) → t.res0 = 0 ∧ t.res1 = 0)

/-- Every combine tree over Runs in index order gives the fold of R191, because KEEP_FIRST_MAX is associative: both groupings of
three Runs give the leftmost of greatest length (R192). -/
def Obligations.CombineTreeIsFold : Prop :=
  (∀ a b c : Run,
    keepFirstMax (keepFirstMax a b) c = keepFirstMax a (keepFirstMax b c) ∧
    keepFirstMax (keepFirstMax a b) c =
      if b.len ≤ a.len ∧ c.len ≤ a.len then a else if c.len ≤ b.len then b else c) ∧
  (∀ tree : CombineTree, tree.value = foldRuns tree.leaves) ∧
  (∀ (tree : CombineTree) (sr : List Slot), tree.leaves = sr.map (·.run) → tree.value = reduceSlots sr)

/-- With one segment PARTITION gives (0, bitlen), and MAXRUN_PAR equals MAXRUN over the whole buffer, in both RES0 and RES1
(R198). -/
def Obligations.MaxrunParOneSegment : Prop :=
  (∀ n : Nat, partition n 1 = [⟨0, 8 * n⟩]) ∧
  ∀ (x : Byte) (s t u : State), s.segCount = 1 → exec (.maxrunPar x) s = .next t →
    exec (.maxrun x) s.wholeWindow = .next u → t.st = .done → u.st = .done →
    t.res0 = u.res0 ∧ t.res1 = u.res1

/-- With more segments than bytes MAXRUN_PAR equals MAXRUN over the whole buffer (R184). -/
def Obligations.MaxrunParManySegments : Prop :=
  ∀ (x : Byte) (s t u : State), s.n < s.segCount → exec (.maxrunPar x) s = .next t →
    exec (.maxrun x) s.wholeWindow = .next u → t.st = .done → u.st = .done →
    t.res0 = u.res0 ∧ t.res1 = u.res1

/-- The undercount law (R195). -/
def Obligations.MaxrunParUndercounts : Prop :=
  ∀ (x : Byte) (s t u : State), exec (.maxrunPar x) s = .next t → exec (.maxrun x) s.wholeWindow = .next u →
    t.st = .done → u.st = .done → t.res0 ≤ u.res0

/-! ## Whole-machine rules -/

/-- No command reads at or past L_LEN or waits at a join barrier that never lifts (R51, R190, R197): no meaning answers a model fault, in any
state, whatever the buffer holds. -/
def Obligations.NoCommandFaultsTheModel : Prop :=
  ∀ (i : Instr) (s : State) (f : Fault), exec i s ≠ .fault f

/-- Every command, on a buffer that the host has supplied, reaches DONE or FAULT (R256). -/
def Obligations.SuppliedCommandsEnd : Prop :=
  ∀ (i : Instr) (s : State), s.supplied → ∃ t, exec i s = .next t ∧ t.ended

/-- No command depends on an earlier one (R39, R242): what it leaves for the host to see is a function of the latch, the buffer and the
parameters, and of nothing else that an earlier command left. The model's counter of draws stands for the free values, which are the
same on both sides (DESIGN CHOICE, assumption 8). -/
def Obligations.NoCommandDependsOnEarlier : Prop :=
  ∀ (i : Instr) (s u t : State), s.p = u.p → s.latch = u.latch → s.buf = u.buf → s.draws = u.draws →
    exec i s = .next t →
    ∃ v, exec i u = .next v ∧ v.st = t.st ∧ v.finfoRead = t.finfoRead ∧
      (t.st = .done → v.res0 = t.res0 ∧ v.res1 = t.res1 ∧ v.res2 = t.res2)

/-- The invariant of the visible state holds at reset, whatever the parameters, and so do the other two. -/
def Obligations.InvariantsAtReset : Prop :=
  ∀ p : Params, (State.resetOf p).Inv ∧ (State.resetOf p).InternalsFit ∧ (State.resetOf p).LatchOfCmd

/-- Every step keeps the buffer in its canonical form and every host-visible register and latched operand within IDX_W bits (R9, R20,
R32). -/
def Obligations.InvKeptByEveryStep : Prop :=
  ∀ s t : State, s.Inv → step s = .next t → t.Inv

/-- Every step keeps the internal registers within their widths (R33 to R36): no value that a command computes wraps (R215). -/
def Obligations.InternalsFitKeptByEveryStep : Prop :=
  ∀ s t : State, s.Inv → s.InternalsFit → step s = .next t → t.InternalsFit

/-- Every step keeps the latch equal to the fields of CMD while a command runs (R31, R32), so the word that BAD_OPCODE reports (R212) is the
word that was decoded. -/
def Obligations.LatchOfCmdKeptByEveryStep : Prop :=
  ∀ s t : State, s.LatchOfCmd → step s = .next t → t.LatchOfCmd

/-- No step changes IDX_W or NWORKERS (R6, R7). -/
def Obligations.ParametersFixed : Prop :=
  ∀ s t : State, step s = .next t → t.p = s.p

/-! ## The host -/

/-- The three writes of a command statement (R78), made while the block waits, launch that command with those operands. -/
def Obligations.CommandStatementLaunches : Prop :=
  ∀ (s : State) (t op a0 a1 : Nat), s.st = .idle ∨ s.st = .done → t < 256 → op < 16 →
    a0 < 2 ^ s.p.idxW → a1 < 2 ^ s.p.idxW →
    ∃ u, andThen (hostEvent (.write 1 a0) s) (fun v => andThen (hostEvent (.write 2 a1) v)
        (hostEvent (.write 0 (cmdValue t op)))) = .next u ∧
      u.st = .busy ∧ u.latch.op.toNat = op ∧ u.latch.tgt.toNat = t ∧ u.latch.rsv = false ∧
      u.latch.a0 = a0 ∧ u.latch.a1 = a1 ∧ u.latch.len = s.bufLen ∧ u.host.pc = s.host.pc + 3

/-- The branches of WAIT (R80): after its read of STATUS, the first goes to the end exactly in DONE, the second exactly in FAULT. -/
def Obligations.WaitEndsInDoneOrFault : Prop :=
  ∀ (s : State) (target : Nat), target ≠ s.host.pc + 2 →
    ∃ u, hostEvent (.poll 4) s = .next u ∧
      (∃ v, hostEvent (.branch true 4 0x7 0x2 target) u = .next v ∧ (v.host.pc = target ↔ s.st = .done) ∧
        (v.host.pc = s.host.pc + 2 ↔ s.st ≠ .done)) ∧
      (∃ v, hostEvent (.branch true 4 0x7 0x4 target) u = .next v ∧ (v.host.pc = target ↔ ∃ c, s.st = .fault c) ∧
        (v.host.pc = s.host.pc + 2 ↔ ∀ c, s.st ≠ .fault c))

/-- BEQ and BNE use the last READ of the register, and do not reach the block (R79). -/
def Obligations.BranchesUseLastRead : Prop :=
  ∀ (s : State) (r v mask value target : Nat), s.host.lastRead r = some v →
    (hostBranch true r mask value target s).host.pc = (if v &&& mask = value then target else s.host.pc + 1) ∧
    (hostBranch false r mask value target s).host.pc = (if v &&& mask = value then s.host.pc + 1 else target) ∧
    (∀ e, { hostBranch e r mask value target s with host := s.host } = s)

/-- The target selector (R81): the three names of 1 give 1, and every other input gives 0. -/
def Obligations.TargetSelector : Prop :=
  ∀ name : String,
    (name = "1" ∨ name = "one" ∨ name = "ones" → selectTarget name = 1) ∧
    (name = "0" ∨ name = "zero" ∨ name = "zeros" → selectTarget name = 0) ∧
    (name ∉ ["0", "zero", "zeros", "1", "one", "ones"] → selectTarget name = 0)
end

