-- ==== Sys2Proof/Laws/Memory.lean ====
section
/-! SUPPORT. The laws of the buffer: a read after a write, the canonical form, and all that MemRead can answer. -/

namespace Sys2Proof.Machine

theorem Memory.read_write_same (m : Memory) (a : Nat) (b : Byte) : Memory.read (Memory.write m a b) a = some b := by
  induction m with
  | nil => simp [Memory.write, Memory.read]
  | cons c m ih =>
    obtain ⟨k, c⟩ := c
    rw [Memory.write]
    split
    · simp [Memory.read]
    · split
      · simp [Memory.read]
      · rw [Memory.read, if_neg (by omega)]
        exact ih

theorem Memory.read_write_other (m : Memory) {a a' : Nat} (b : Byte) (h : a' ≠ a) :
    Memory.read (Memory.write m a b) a' = Memory.read m a' := by
  induction m with
  | nil => simp [Memory.write, Memory.read, h.symm]
  | cons c m ih =>
    obtain ⟨k, c⟩ := c
    rw [Memory.write]
    split
    · rw [Memory.read, if_neg h.symm]
    · split
      · subst k
        simp [Memory.read, h.symm]
      · simp only [Memory.read, ih]

theorem Memory.mem_write {m : Memory} {a : Nat} {b : Byte} {x : Host.Cell} (h : x ∈ Memory.write m a b) :
    x = (a, b) ∨ x ∈ m := by
  induction m with
  | nil => simpa [Memory.write] using h
  | cons c m ih =>
    obtain ⟨k, c⟩ := c
    rw [Memory.write] at h
    split at h
    · simpa using h
    · split at h
      · simp only [List.mem_cons] at h ⊢
        tauto
      · simp only [List.mem_cons] at h ⊢
        rcases h with h | h
        · exact .inr (.inl h)
        · exact (ih h).imp id .inr

/-- A write keeps the canonical form. -/
theorem Memory.wf_write {m : Memory} (a : Nat) (b : Byte) (h : Memory.wf m) : Memory.wf (Memory.write m a b) := by
  induction m with
  | nil => simp [Memory.write, Memory.wf]
  | cons c m ih =>
    obtain ⟨k, c⟩ := c
    simp only [Memory.wf, List.map_cons, List.pairwise_cons, List.mem_map, forall_exists_index, and_imp,
      forall_apply_eq_imp_iff₂] at h ih
    rw [Memory.write]
    split
    · rename_i hk
      simp only [Memory.wf, List.map_cons, List.pairwise_cons, List.mem_map, List.mem_cons]
      refine ⟨?_, ?_, h.2⟩
      · rintro _ (rfl | ⟨x, hx, rfl⟩)
        · exact hk
        · exact hk.trans (h.1 x hx)
      · rintro _ ⟨x, hx, rfl⟩
        exact h.1 x hx
    · split
      · subst k
        simp only [Memory.wf, List.map_cons, List.pairwise_cons, List.mem_map]
        exact ⟨by rintro _ ⟨x, hx, rfl⟩; exact h.1 x hx, h.2⟩
      · simp only [Memory.wf, List.map_cons, List.pairwise_cons, List.mem_map]
        refine ⟨?_, ih h.2⟩
        rintro _ ⟨x, hx, rfl⟩
        rcases Memory.mem_write hx with rfl | hx
        · show k < a
          omega
        · exact h.1 x hx

theorem Memory.wf_reset (p : Params) : Memory.wf (State.resetOf p).buf := List.Pairwise.nil

/-- All that MemRead can answer: a byte of the buffer, a refusal below the length, a model fault at or past it. -/
theorem memRead_cases (m : Memory) (n a : Nat) :
    (∃ b, a < n ∧ Memory.read m a = some b ∧ memRead m n a = .next b) ∨
      (a < n ∧ Memory.read m a = none ∧ memRead m n a = .refused (.bufferNotSupplied a)) ∨
      (n ≤ a ∧ memRead m n a = .fault (.readPastLen a)) := by
  unfold memRead
  by_cases h : a < n
  · cases hr : Memory.read m a with
    | none => exact .inr (.inl ⟨h, rfl, by simp [h]⟩)
    | some b => exact .inl ⟨b, h, rfl, by simp [h]⟩
  · exact .inr (.inr ⟨by omega, by simp [h]⟩)

theorem memRead_eq_next {m : Memory} {n a : Nat} {b : Byte} :
    memRead m n a = .next b ↔ a < n ∧ Memory.read m a = some b := by
  rcases memRead_cases m n a with ⟨c, h, hr, hm⟩ | ⟨h, hr, hm⟩ | ⟨h, hm⟩ <;> rw [hm]
  · simp [h, hr, eq_comm]
  · simp [hr]
  · simp only [reduceCtorEq, false_iff, not_and]
    omega

theorem memRead_ne_fault {m : Memory} {n a : Nat} (h : a < n) (f : Fault) : memRead m n a ≠ .fault f := by
  rcases memRead_cases m n a with ⟨c, _, _, hm⟩ | ⟨_, _, hm⟩ | ⟨h', _⟩
  · simp [hm]
  · simp [hm]
  · omega

end Sys2Proof.Machine
end

