-- ==== Sys2Proof/Laws/Ops.lean ====
section
/-! SUPPORT. All that the shared operations can do: sequencing, the free values, the launch checks, register reads and writes. -/

namespace Sys2Proof.Machine

variable {α β : Type}

@[simp] theorem andThen_next (a : α) (f : α → Host.Outcome β Fault Refusal) : andThen (.next a) f = f a := rfl
@[simp] theorem andThen_fault (r : Fault) (f : α → Host.Outcome β Fault Refusal) : andThen (.fault r) f = .fault r := rfl
@[simp] theorem andThen_refused (r : Refusal) (f : α → Host.Outcome β Fault Refusal) :
    andThen (.refused r) f = .refused r := rfl

/-- A sequence answers a value exactly where both its parts do. -/
theorem andThen_eq_next {o : Host.Outcome α Fault Refusal} {f : α → Host.Outcome β Fault Refusal} {b : β} :
    andThen o f = .next b ↔ ∃ a, o = .next a ∧ f a = .next b := by
  cases o <;> simp

/-- A sequence answers a fault where one of its parts does. -/
theorem andThen_eq_fault {o : Host.Outcome α Fault Refusal} {f : α → Host.Outcome β Fault Refusal} {r : Fault} :
    andThen o f = .fault r ↔ o = .fault r ∨ ∃ a, o = .next a ∧ f a = .fault r := by
  cases o <;> simp

theorem freeWord_lt (p : Params) (d j : Nat) : freeWord p d j < 2 ^ p.idxW :=
  Nat.mod_lt _ (Nat.two_pow_pos _)

/-- A value that fits IDX_W bits is stored as it is. -/
@[simp] theorem fit_of_lt {p : Params} {v : Nat} (d j : Nat) (h : v < 2 ^ p.idxW) : fit p d j v = v := if_pos h

/-- What a register of IDX_W bits holds after a store has IDX_W bits. -/
theorem fit_lt (p : Params) (d j v : Nat) : fit p d j v < 2 ^ p.idxW := by
  unfold fit
  split
  · assumption
  · exact freeWord_lt p d j

/-- An IDX_W of at least 4 holds every number below 16 (R6). -/
theorem sixteen_le_two_pow_idxW (p : Params) : 16 ≤ 2 ^ p.idxW :=
  Nat.pow_le_pow_right (n := 2) (by decide) p.idxW_ge

/-- A checked command faults with its first violation, or goes on where it has none. -/
theorem checked_cases (s : State) (cs : List (Option Violation)) (go : Host.Outcome State Fault Refusal) :
    (∃ v, firstViolation cs = some v ∧ checked s cs go = .next (s.raise v.1 v.2)) ∨
      (firstViolation cs = none ∧ checked s cs go = go) := by
  unfold checked
  cases h : firstViolation cs with
  | none => exact .inr ⟨rfl, rfl⟩
  | some v => exact .inl ⟨v, rfl, rfl⟩

/-- No check of a list fails exactly where every one of them passes. -/
theorem firstViolation_eq_none {cs : List (Option Violation)} : firstViolation cs = none ↔ ∀ c ∈ cs, c = none := by
  induction cs with
  | nil => simp [firstViolation]
  | cons c cs ih => cases c <;> simp [firstViolation, ih]

theorem checkBuflen_eq_none {s : State} : checkBuflen s = none ↔ s.bitlen < 2 ^ s.p.idxW := by
  simp [checkBuflen]

theorem checkTarget_eq_none {x : Byte} : checkTarget x = none ↔ x.toNat ≤ 1 := by
  simp [checkTarget]

theorem checkSegcount_eq_none {s : State} : checkSegcount s = none ↔ s.segCount ≠ 0 := by
  simp [checkSegcount]

theorem checkPos_eq_none {s : State} : checkPos s = none ↔ s.pos < s.bitlen := by
  simp [checkPos]

theorem checkStart_eq_none {s : State} : checkStart s = none ↔ s.start < s.bitlen := by
  simp [checkStart]

theorem checkNonempty_eq_none {s : State} : checkNonempty s = none ↔ s.bitlen ≠ 0 := by
  simp [checkNonempty]

/-- All that a write to CMD can do. -/
theorem State.writeCmd_cases (s : State) (w : Word) :
    ((s.st = .idle ∨ s.st = .done) ∧
        s.writeCmd w = { s.launchAfter w (Config.latency s.draws) with draws := s.draws + 1 }) ∨
      ((s.st = .busy ∨ ∃ c, s.st = .fault c) ∧ s.writeCmd w = s) := by
  unfold State.writeCmd
  cases h : s.st <;> simp

/-- A value of 32 bits is kept. -/
@[simp] theorem fitWord_of_lt {v : Nat} (d : Nat) (h : v < 2 ^ 32) : fitWord d v = BitVec.ofNat 32 v := by
  rw [fitWord, if_pos h]

/-- All that a register write can do. -/
theorem State.writeReg_cases (s : State) (r v : Nat) :
    (r = 0 ∧ s.writeReg r v = s.writeCmd (fitWord s.draws v)) ∨
      (r = 1 ∧ s.writeReg r v = { s with arg0 := fit s.p s.draws 0 v, draws := s.draws + 1 }) ∨
      (r = 2 ∧ s.writeReg r v = { s with arg1 := fit s.p s.draws 0 v, draws := s.draws + 1 }) ∨
      (r = 3 ∧ s.writeReg r v = { s with bufLen := fit s.p s.draws 0 v, draws := s.draws + 1 }) ∨
      (4 ≤ r ∧ s.writeReg r v = s) := by
  match r with
  | 0 => exact .inl ⟨rfl, rfl⟩
  | 1 => exact .inr (.inl ⟨rfl, rfl⟩)
  | 2 => exact .inr (.inr (.inl ⟨rfl, rfl⟩))
  | 3 => exact .inr (.inr (.inr (.inl ⟨rfl, rfl⟩)))
  | k + 4 => exact .inr (.inr (.inr (.inr ⟨by omega, rfl⟩)))

/-- A register read changes nothing, or only the count of draws. -/
theorem State.readReg_state (s : State) (r : Nat) :
    (s.readReg r).2 = s ∨ (s.readReg r).2 = { s with draws := s.draws + 1 } := by
  have hres (v : Nat) : (s.readRes v).2 = s ∨ (s.readRes v).2 = { s with draws := s.draws + 1 } := by
    unfold State.readRes
    split
    · exact .inl rfl
    · exact .inr rfl
  match r with
  | 0 | 1 | 2 | 3 | 4 | 5 => exact .inl rfl
  | 6 => exact hres _
  | 7 => exact hres _
  | 8 => exact hres _
  | k + 9 => exact .inl rfl

end Sys2Proof.Machine
end

