-- ==== Sys2Proof/Laws/Cursor.lean ====
section
/-! SUPPORT. What one read of a byte, CURSOR_INIT and CURSOR_ADVANCE can do. -/

namespace Sys2Proof.Machine

/-- The bit by shift (R107) is the bit by mask (R11). -/
theorem bitOfByte_eq_maskedBit (b : Byte) {off : Nat} (h : off ≤ 7) : bitOfByte b off = maskedBit b off := by
  have all : ∀ (x : Fin 256) (k : Fin 8), bitOfByte (BitVec.ofFin x) k = maskedBit (BitVec.ofFin x) k := by decide +kernel
  exact all b.toFin ⟨off, by omega⟩

theorem maskedBit_le_one (b : Byte) (off : Nat) : maskedBit b off ≤ 1 := by
  unfold maskedBit
  split <;> omega

/-- CURSOR_INIT answers a cursor exactly where the byte of its position is there. -/
theorem cursorInit_eq_next {m : Memory} {n s : Nat} {c : Cursor} :
    cursorInit m n s = .next c ↔
      s / 8 < n ∧ ∃ b, Memory.read m (s / 8) = some b ∧ c = ⟨b, s / 8, s % 8, s⟩ := by
  simp only [cursorInit, andThen_eq_next, memRead_eq_next, Host.Outcome.next.injEq]
  constructor
  · rintro ⟨b, ⟨h, hb⟩, rfl⟩
    exact ⟨h, b, hb, rfl⟩
  · rintro ⟨h, b, hb, rfl⟩
    exact ⟨b, ⟨h, hb⟩, rfl⟩

/-- The index of the next byte, around the end of the buffer, lies in it. -/
theorem nextIndex_lt {n i : Nat} (h : i < n) : (if i + 1 = n then 0 else i + 1) < n := by
  split <;> omega

/-- All that CURSOR_ADVANCE can do: within a byte, into the next one, or stop where that byte is not there. -/
theorem cursorAdvance_cases (m : Memory) (n : Nat) (c : Cursor) :
    (c.off ≠ 7 ∧ cursorAdvance m n c = .next { c with off := c.off + 1, pos := normalize (8 * n) (c.pos + 1) }) ∨
      (c.off = 7 ∧ ∃ i, i = (if c.idx + 1 = n then 0 else c.idx + 1) ∧
        cursorAdvance m n c = andThen (memRead m n i) fun b => .next ⟨b, i, 0, normalize (8 * n) (c.pos + 1)⟩) := by
  unfold cursorAdvance
  by_cases h : c.off = 7
  · exact .inr ⟨h, _, rfl, by rw [if_pos h]⟩
  · exact .inl ⟨h, by rw [if_neg h]⟩

/-- The normalization of R106 is reduction modulo bitlen, for a position that one step reaches. -/
theorem normalize_eq_mod {bitlen raw : Nat} (h : raw ≤ bitlen) : normalize bitlen raw = raw % bitlen := by
  unfold normalize
  split
  · have : raw = bitlen := by omega
    simp [this]
  · rw [Nat.mod_eq_of_lt (by omega)]

end Sys2Proof.Machine
end

