-- ==== Sys2Proof/Laws/Exec.lean ====
section
/-! SUPPORT. One inversion lemma per command: what its meaning has done where it answers a next state. -/

namespace Sys2Proof.Machine

/-- A checked command that answers a next state has faulted with its first violation, or passed its checks and gone on. -/
theorem checked_eq_next {s t : State} {cs : List (Option Violation)} {go : Host.Outcome State Fault Refusal} :
    checked s cs go = .next t ↔
      (∃ v, firstViolation cs = some v ∧ t = s.raise v.1 v.2) ∨ (firstViolation cs = none ∧ go = .next t) := by
  rcases checked_cases s cs go with ⟨v, hv, hc⟩ | ⟨hv, hc⟩ <;> simp [hv, hc, eq_comm]

/-- A checked command answers a model fault only past its checks. -/
theorem checked_eq_fault {s : State} {cs : List (Option Violation)} {go : Host.Outcome State Fault Refusal} {f : Fault} :
    checked s cs go = .fault f ↔ firstViolation cs = none ∧ go = .fault f := by
  rcases checked_cases s cs go with ⟨v, hv, hc⟩ | ⟨hv, hc⟩ <;> simp [hv, hc]

variable {x : Byte} {s t : State}

theorem execAddr_eq_next :
    exec (.addr x) s = .next t ↔
      (∃ v, firstViolation [checkBuflen s, checkPos s] = some v ∧ t = s.raise v.1 v.2) ∨
        (firstViolation [checkBuflen s, checkPos s] = none ∧
          ∃ b, memRead s.buf s.n (s.pos / 8) = .next b ∧ t = s.finish b.toNat (s.pos / 8) (s.pos % 8)) := by
  simp only [exec, execAddr, checked_eq_next, andThen_eq_next, Host.Outcome.next.injEq, eq_comm (a := t)]

theorem execGetbit_eq_next :
    exec (.getbit x) s = .next t ↔
      (∃ v, firstViolation [checkBuflen s, checkPos s] = some v ∧ t = s.raise v.1 v.2) ∨
        (firstViolation [checkBuflen s, checkPos s] = none ∧
          ∃ b, memRead s.buf s.n (s.pos / 8) = .next b ∧ t = s.finish (maskedBit b (s.pos % 8)) 0 0) := by
  simp only [exec, execGetbit, checked_eq_next, andThen_eq_next, Host.Outcome.next.injEq, eq_comm (a := t)]

theorem execCount_eq_next :
    exec (.count x) s = .next t ↔
      (∃ v, firstViolation [checkBuflen s, checkTarget x] = some v ∧ t = s.raise v.1 v.2) ∨
        (firstViolation [checkBuflen s, checkTarget x] = none ∧
          ∃ c, countFrom s.buf s.n x.toNat s.n 0 0 = .next c ∧
            t = ({ s with cnt := c, scan := { s.scan with k := s.bitlen } } : State).finish c 0 0) := by
  simp only [exec, execCount, checked_eq_next, andThen_eq_next, Host.Outcome.next.injEq, eq_comm (a := t)]

theorem execLeadrun_eq_next :
    exec (.leadrun x) s = .next t ↔
      (∃ v, firstViolation [checkBuflen s, checkTarget x, checkStart s] = some v ∧ t = s.raise v.1 v.2) ∨
        (firstViolation [checkBuflen s, checkTarget x, checkStart s] = none ∧
          ∃ c, cursorInit s.buf s.n s.start = .next c ∧
            ∃ e, leadLoop s.buf s.n x.toNat s.window c 0 0 = .next e ∧
              t = ({ s with scan := { s.scan with cursor := e.1, k := e.2.1 }, lrN := e.2.2 } : State).finish e.2.2 0 0) := by
  simp only [exec, execLeadrun, checked_eq_next, andThen_eq_next, Host.Outcome.next.injEq, eq_comm (a := t)]

theorem execMaxrun_eq_next :
    exec (.maxrun x) s = .next t ↔
      (∃ v, firstViolation [checkBuflen s, checkTarget x, checkStart s] = some v ∧ t = s.raise v.1 v.2) ∨
        (firstViolation [checkBuflen s, checkTarget x, checkStart s] = none ∧
          ∃ r, maxrunCore s.buf s.n x.toNat s.start s.window = .next r ∧
            t = ({ s with scan := r } : State).finish r.best.len r.best.start 0) := by
  simp only [exec, execMaxrun, checked_eq_next, andThen_eq_next, Host.Outcome.next.injEq, eq_comm (a := t)]

theorem execMaxrunPar_eq_next :
    exec (.maxrunPar x) s = .next t ↔
      (∃ v, firstViolation [checkBuflen s, checkTarget x, checkSegcount s, checkNonempty s] = some v ∧
          t = s.raise v.1 v.2) ∨
        (firstViolation [checkBuflen s, checkTarget x, checkSegcount s, checkNonempty s] = none ∧
          ∃ e, fanOut s.buf s.n x.toNat (fanOutFuel s.n s.segCount) s.sched (parInit s.p s.par s.n s.segCount) = .next e ∧
            t = ({ s with par := e.1, sched := e.2 } : State).finish (reduceSlots e.1.sr).len (reduceSlots e.1.sr).start 0) := by
  simp only [exec, execMaxrunPar, checked_eq_next, andThen_eq_next, Host.Outcome.next.injEq, eq_comm (a := t)]

/-- One tick of the fan-out: the barrier has lifted, or one enabled event is made, or none is left. -/
theorem fanOut_succ (m : Memory) (n target fuel : Nat) (sched : List Nat) (q : Par) :
    (q.join = q.nseg ∧ fanOut m n target (fuel + 1) sched q = .next (q, sched)) ∨
      (q.join ≠ q.nseg ∧ q.events = [] ∧ fanOut m n target (fuel + 1) sched q = .fault .joinNotLifted) ∨
      (q.join ≠ q.nseg ∧ ∃ e ∈ q.events, fanOut m n target (fuel + 1) sched q =
        andThen (workerEvent m n target q e) (fanOut m n target fuel sched.tail)) := by
  by_cases h : q.join = q.nseg
  · exact .inl ⟨h, by rw [fanOut, if_pos h]⟩
  · cases he : q.events with
    | nil => exact .inr (.inl ⟨h, rfl, by rw [fanOut, if_neg h, he]⟩)
    | cons e es =>
      refine .inr (.inr ⟨h, pick sched e es, ?_, by rw [fanOut, if_neg h, he]⟩)
      have hlt : sched.headD 0 % (e :: es).length < (e :: es).length := Nat.mod_lt _ (by simp)
      simp only [pick, List.getD_eq_getElem _ _ hlt]
      exact List.getElem_mem _

end Sys2Proof.Machine
end

