-- ==== Sys2Proof/Laws/State.lean ====
section
/-! SUPPORT. One lemma per field of State and per update of it, so that no proof unfolds a record update. -/

namespace Sys2Proof.Machine

variable (s : State)

/-! ### The fields after fault entry (R211) -/

@[simp] theorem State.raise_p (c : FaultCode) (v : Nat) : (s.raise c v).p = s.p := rfl
@[simp] theorem State.raise_cmd (c : FaultCode) (v : Nat) : (s.raise c v).cmd = s.cmd := rfl
@[simp] theorem State.raise_arg0 (c : FaultCode) (v : Nat) : (s.raise c v).arg0 = s.arg0 := rfl
@[simp] theorem State.raise_arg1 (c : FaultCode) (v : Nat) : (s.raise c v).arg1 = s.arg1 := rfl
@[simp] theorem State.raise_bufLen (c : FaultCode) (v : Nat) : (s.raise c v).bufLen = s.bufLen := rfl
@[simp] theorem State.raise_st (c : FaultCode) (v : Nat) : (s.raise c v).st = .fault c := rfl
@[simp] theorem State.raise_finfo (c : FaultCode) (v : Nat) : (s.raise c v).finfo = fit s.p s.draws 0 v := rfl
@[simp] theorem State.raise_res0 (c : FaultCode) (v : Nat) : (s.raise c v).res0 = s.res0 := rfl
@[simp] theorem State.raise_res1 (c : FaultCode) (v : Nat) : (s.raise c v).res1 = s.res1 := rfl
@[simp] theorem State.raise_res2 (c : FaultCode) (v : Nat) : (s.raise c v).res2 = s.res2 := rfl
@[simp] theorem State.raise_latch (c : FaultCode) (v : Nat) : (s.raise c v).latch = s.latch := rfl
@[simp] theorem State.raise_scan (c : FaultCode) (v : Nat) : (s.raise c v).scan = s.scan := rfl
@[simp] theorem State.raise_cnt (c : FaultCode) (v : Nat) : (s.raise c v).cnt = s.cnt := rfl
@[simp] theorem State.raise_lrN (c : FaultCode) (v : Nat) : (s.raise c v).lrN = s.lrN := rfl
@[simp] theorem State.raise_par (c : FaultCode) (v : Nat) : (s.raise c v).par = s.par.stop := rfl
@[simp] theorem State.raise_buf (c : FaultCode) (v : Nat) : (s.raise c v).buf = s.buf := rfl
@[simp] theorem State.raise_host (c : FaultCode) (v : Nat) : (s.raise c v).host = s.host := rfl
@[simp] theorem State.raise_delay (c : FaultCode) (v : Nat) : (s.raise c v).delay = s.delay := rfl
@[simp] theorem State.raise_sched (c : FaultCode) (v : Nat) : (s.raise c v).sched = s.sched := rfl
@[simp] theorem State.raise_draws (c : FaultCode) (v : Nat) : (s.raise c v).draws = s.draws + 1 := rfl

@[simp] theorem Par.stop_nseg (q : Par) : q.stop.nseg = q.nseg := rfl
@[simp] theorem Par.stop_seg (q : Par) : q.stop.seg = q.seg := rfl
@[simp] theorem Par.stop_sr (q : Par) : q.stop.sr = q.sr.map fun x => { x with valid := false } := rfl
@[simp] theorem Par.stop_join (q : Par) : q.stop.join = 0 := rfl
@[simp] theorem Par.stop_workers (q : Par) : q.stop.workers = q.workers.map fun w => { w with assigned := none } := rfl

/-! ### The fields after completion (R61) -/

@[simp] theorem State.finish_p (x y z : Nat) : (s.finish x y z).p = s.p := rfl
@[simp] theorem State.finish_cmd (x y z : Nat) : (s.finish x y z).cmd = s.cmd := rfl
@[simp] theorem State.finish_arg0 (x y z : Nat) : (s.finish x y z).arg0 = s.arg0 := rfl
@[simp] theorem State.finish_arg1 (x y z : Nat) : (s.finish x y z).arg1 = s.arg1 := rfl
@[simp] theorem State.finish_bufLen (x y z : Nat) : (s.finish x y z).bufLen = s.bufLen := rfl
@[simp] theorem State.finish_st (x y z : Nat) : (s.finish x y z).st = .done := rfl
@[simp] theorem State.finish_finfo (x y z : Nat) : (s.finish x y z).finfo = s.finfo := rfl
@[simp] theorem State.finish_res0 (x y z : Nat) : (s.finish x y z).res0 = fit s.p s.draws 0 x := rfl
@[simp] theorem State.finish_res1 (x y z : Nat) : (s.finish x y z).res1 = fit s.p s.draws 1 y := rfl
@[simp] theorem State.finish_res2 (x y z : Nat) : (s.finish x y z).res2 = fit s.p s.draws 2 z := rfl
@[simp] theorem State.finish_latch (x y z : Nat) : (s.finish x y z).latch = s.latch := rfl
@[simp] theorem State.finish_scan (x y z : Nat) : (s.finish x y z).scan = s.scan := rfl
@[simp] theorem State.finish_cnt (x y z : Nat) : (s.finish x y z).cnt = s.cnt := rfl
@[simp] theorem State.finish_lrN (x y z : Nat) : (s.finish x y z).lrN = s.lrN := rfl
@[simp] theorem State.finish_par (x y z : Nat) : (s.finish x y z).par = s.par := rfl
@[simp] theorem State.finish_buf (x y z : Nat) : (s.finish x y z).buf = s.buf := rfl
@[simp] theorem State.finish_host (x y z : Nat) : (s.finish x y z).host = s.host := rfl
@[simp] theorem State.finish_delay (x y z : Nat) : (s.finish x y z).delay = s.delay := rfl
@[simp] theorem State.finish_sched (x y z : Nat) : (s.finish x y z).sched = s.sched := rfl
@[simp] theorem State.finish_draws (x y z : Nat) : (s.finish x y z).draws = s.draws + 1 := rfl

/-! ### The fields after launch (R31) -/

@[simp] theorem State.launchAfter_p (w : Word) (n : Nat) : (s.launchAfter w n).p = s.p := rfl
@[simp] theorem State.launchAfter_cmd (w : Word) (n : Nat) : (s.launchAfter w n).cmd = w := rfl
@[simp] theorem State.launchAfter_arg0 (w : Word) (n : Nat) : (s.launchAfter w n).arg0 = s.arg0 := rfl
@[simp] theorem State.launchAfter_arg1 (w : Word) (n : Nat) : (s.launchAfter w n).arg1 = s.arg1 := rfl
@[simp] theorem State.launchAfter_bufLen (w : Word) (n : Nat) : (s.launchAfter w n).bufLen = s.bufLen := rfl
@[simp] theorem State.launchAfter_st (w : Word) (n : Nat) : (s.launchAfter w n).st = .busy := rfl
@[simp] theorem State.launchAfter_finfo (w : Word) (n : Nat) : (s.launchAfter w n).finfo = 0 := rfl
@[simp] theorem State.launchAfter_res0 (w : Word) (n : Nat) : (s.launchAfter w n).res0 = s.res0 := rfl
@[simp] theorem State.launchAfter_res1 (w : Word) (n : Nat) : (s.launchAfter w n).res1 = s.res1 := rfl
@[simp] theorem State.launchAfter_res2 (w : Word) (n : Nat) : (s.launchAfter w n).res2 = s.res2 := rfl
@[simp] theorem State.launchAfter_latch (w : Word) (n : Nat) : (s.launchAfter w n).latch = s.latchOf w := rfl
@[simp] theorem State.launchAfter_scan (w : Word) (n : Nat) : (s.launchAfter w n).scan = s.scan := rfl
@[simp] theorem State.launchAfter_cnt (w : Word) (n : Nat) : (s.launchAfter w n).cnt = s.cnt := rfl
@[simp] theorem State.launchAfter_lrN (w : Word) (n : Nat) : (s.launchAfter w n).lrN = s.lrN := rfl
@[simp] theorem State.launchAfter_par (w : Word) (n : Nat) : (s.launchAfter w n).par = s.par := rfl
@[simp] theorem State.launchAfter_buf (w : Word) (n : Nat) : (s.launchAfter w n).buf = s.buf := rfl
@[simp] theorem State.launchAfter_host (w : Word) (n : Nat) : (s.launchAfter w n).host = s.host := rfl
@[simp] theorem State.launchAfter_delay (w : Word) (n : Nat) : (s.launchAfter w n).delay = n := rfl
@[simp] theorem State.launchAfter_sched (w : Word) (n : Nat) : (s.launchAfter w n).sched = s.sched := rfl
@[simp] theorem State.launchAfter_draws (w : Word) (n : Nat) : (s.launchAfter w n).draws = s.draws := rfl

/-! ### The fields after a move in the host's program -/

@[simp] theorem State.hostGoto_p (k : Nat) : (s.hostGoto k).p = s.p := rfl
@[simp] theorem State.hostGoto_cmd (k : Nat) : (s.hostGoto k).cmd = s.cmd := rfl
@[simp] theorem State.hostGoto_arg0 (k : Nat) : (s.hostGoto k).arg0 = s.arg0 := rfl
@[simp] theorem State.hostGoto_arg1 (k : Nat) : (s.hostGoto k).arg1 = s.arg1 := rfl
@[simp] theorem State.hostGoto_bufLen (k : Nat) : (s.hostGoto k).bufLen = s.bufLen := rfl
@[simp] theorem State.hostGoto_st (k : Nat) : (s.hostGoto k).st = s.st := rfl
@[simp] theorem State.hostGoto_finfo (k : Nat) : (s.hostGoto k).finfo = s.finfo := rfl
@[simp] theorem State.hostGoto_res0 (k : Nat) : (s.hostGoto k).res0 = s.res0 := rfl
@[simp] theorem State.hostGoto_res1 (k : Nat) : (s.hostGoto k).res1 = s.res1 := rfl
@[simp] theorem State.hostGoto_res2 (k : Nat) : (s.hostGoto k).res2 = s.res2 := rfl
@[simp] theorem State.hostGoto_latch (k : Nat) : (s.hostGoto k).latch = s.latch := rfl
@[simp] theorem State.hostGoto_scan (k : Nat) : (s.hostGoto k).scan = s.scan := rfl
@[simp] theorem State.hostGoto_cnt (k : Nat) : (s.hostGoto k).cnt = s.cnt := rfl
@[simp] theorem State.hostGoto_lrN (k : Nat) : (s.hostGoto k).lrN = s.lrN := rfl
@[simp] theorem State.hostGoto_par (k : Nat) : (s.hostGoto k).par = s.par := rfl
@[simp] theorem State.hostGoto_buf (k : Nat) : (s.hostGoto k).buf = s.buf := rfl
@[simp] theorem State.hostGoto_host (k : Nat) : (s.hostGoto k).host = { s.host with pc := k } := rfl
@[simp] theorem State.hostGoto_delay (k : Nat) : (s.hostGoto k).delay = s.delay := rfl
@[simp] theorem State.hostGoto_sched (k : Nat) : (s.hostGoto k).sched = s.sched := rfl
@[simp] theorem State.hostGoto_draws (k : Nat) : (s.hostGoto k).draws = s.draws := rfl

/-! ### The fields after the host's next event -/

@[simp] theorem State.hostNext_p : s.hostNext.p = s.p := rfl
@[simp] theorem State.hostNext_cmd : s.hostNext.cmd = s.cmd := rfl
@[simp] theorem State.hostNext_arg0 : s.hostNext.arg0 = s.arg0 := rfl
@[simp] theorem State.hostNext_arg1 : s.hostNext.arg1 = s.arg1 := rfl
@[simp] theorem State.hostNext_bufLen : s.hostNext.bufLen = s.bufLen := rfl
@[simp] theorem State.hostNext_st : s.hostNext.st = s.st := rfl
@[simp] theorem State.hostNext_finfo : s.hostNext.finfo = s.finfo := rfl
@[simp] theorem State.hostNext_res0 : s.hostNext.res0 = s.res0 := rfl
@[simp] theorem State.hostNext_res1 : s.hostNext.res1 = s.res1 := rfl
@[simp] theorem State.hostNext_res2 : s.hostNext.res2 = s.res2 := rfl
@[simp] theorem State.hostNext_latch : s.hostNext.latch = s.latch := rfl
@[simp] theorem State.hostNext_scan : s.hostNext.scan = s.scan := rfl
@[simp] theorem State.hostNext_cnt : s.hostNext.cnt = s.cnt := rfl
@[simp] theorem State.hostNext_lrN : s.hostNext.lrN = s.lrN := rfl
@[simp] theorem State.hostNext_par : s.hostNext.par = s.par := rfl
@[simp] theorem State.hostNext_buf : s.hostNext.buf = s.buf := rfl
@[simp] theorem State.hostNext_host : s.hostNext.host = { s.host with pc := s.host.pc + 1 } := rfl
@[simp] theorem State.hostNext_delay : s.hostNext.delay = s.delay := rfl
@[simp] theorem State.hostNext_sched : s.hostNext.sched = s.sched := rfl
@[simp] theorem State.hostNext_draws : s.hostNext.draws = s.draws := rfl

/-! ### The fields after the record of a read -/

@[simp] theorem State.hostSaw_p (e : ReadEvent) : (s.hostSaw e).p = s.p := rfl
@[simp] theorem State.hostSaw_cmd (e : ReadEvent) : (s.hostSaw e).cmd = s.cmd := rfl
@[simp] theorem State.hostSaw_arg0 (e : ReadEvent) : (s.hostSaw e).arg0 = s.arg0 := rfl
@[simp] theorem State.hostSaw_arg1 (e : ReadEvent) : (s.hostSaw e).arg1 = s.arg1 := rfl
@[simp] theorem State.hostSaw_bufLen (e : ReadEvent) : (s.hostSaw e).bufLen = s.bufLen := rfl
@[simp] theorem State.hostSaw_st (e : ReadEvent) : (s.hostSaw e).st = s.st := rfl
@[simp] theorem State.hostSaw_finfo (e : ReadEvent) : (s.hostSaw e).finfo = s.finfo := rfl
@[simp] theorem State.hostSaw_res0 (e : ReadEvent) : (s.hostSaw e).res0 = s.res0 := rfl
@[simp] theorem State.hostSaw_res1 (e : ReadEvent) : (s.hostSaw e).res1 = s.res1 := rfl
@[simp] theorem State.hostSaw_res2 (e : ReadEvent) : (s.hostSaw e).res2 = s.res2 := rfl
@[simp] theorem State.hostSaw_latch (e : ReadEvent) : (s.hostSaw e).latch = s.latch := rfl
@[simp] theorem State.hostSaw_scan (e : ReadEvent) : (s.hostSaw e).scan = s.scan := rfl
@[simp] theorem State.hostSaw_cnt (e : ReadEvent) : (s.hostSaw e).cnt = s.cnt := rfl
@[simp] theorem State.hostSaw_lrN (e : ReadEvent) : (s.hostSaw e).lrN = s.lrN := rfl
@[simp] theorem State.hostSaw_par (e : ReadEvent) : (s.hostSaw e).par = s.par := rfl
@[simp] theorem State.hostSaw_buf (e : ReadEvent) : (s.hostSaw e).buf = s.buf := rfl
@[simp] theorem State.hostSaw_host (e : ReadEvent) : (s.hostSaw e).host = { s.host with reads := e :: s.host.reads } := rfl
@[simp] theorem State.hostSaw_delay (e : ReadEvent) : (s.hostSaw e).delay = s.delay := rfl
@[simp] theorem State.hostSaw_sched (e : ReadEvent) : (s.hostSaw e).sched = s.sched := rfl
@[simp] theorem State.hostSaw_draws (e : ReadEvent) : (s.hostSaw e).draws = s.draws := rfl

/-! ### The fields after reset (R240) -/

@[simp] theorem State.applyReset_p : s.applyReset.p = s.p := rfl
@[simp] theorem State.applyReset_cmd : s.applyReset.cmd = 0 := rfl
@[simp] theorem State.applyReset_arg0 : s.applyReset.arg0 = 0 := rfl
@[simp] theorem State.applyReset_arg1 : s.applyReset.arg1 = 0 := rfl
@[simp] theorem State.applyReset_bufLen : s.applyReset.bufLen = 0 := rfl
@[simp] theorem State.applyReset_st : s.applyReset.st = .idle := rfl
@[simp] theorem State.applyReset_finfo : s.applyReset.finfo = 0 := rfl
@[simp] theorem State.applyReset_res0 : s.applyReset.res0 = 0 := rfl
@[simp] theorem State.applyReset_res1 : s.applyReset.res1 = 0 := rfl
@[simp] theorem State.applyReset_res2 : s.applyReset.res2 = 0 := rfl
@[simp] theorem State.applyReset_latch : s.applyReset.latch = freeLatch s.p s.draws := rfl
@[simp] theorem State.applyReset_scan : s.applyReset.scan = freeRegs s.p s.draws 6 := rfl
@[simp] theorem State.applyReset_cnt : s.applyReset.cnt = freeWord s.p s.draws 15 := rfl
@[simp] theorem State.applyReset_lrN : s.applyReset.lrN = freeWord s.p s.draws 16 := rfl
@[simp] theorem State.applyReset_par : s.applyReset.par = freePar s.p (s.draws + 1) := rfl
@[simp] theorem State.applyReset_buf : s.applyReset.buf = s.buf := rfl
@[simp] theorem State.applyReset_host : s.applyReset.host = s.host := rfl
@[simp] theorem State.applyReset_delay : s.applyReset.delay = 0 := rfl
@[simp] theorem State.applyReset_sched : s.applyReset.sched = s.sched := rfl
@[simp] theorem State.applyReset_draws : s.applyReset.draws = s.draws + 5 := rfl

end Sys2Proof.Machine
end

