-- ==== Sys2Proof/Laws/Host.lean ====
section
/-! SUPPORT. All that a step can be: the host's next event, the block's move, or nothing. -/

namespace Sys2Proof.Machine

/-- The host's move is its next event, or nothing past its last statement. -/
theorem hostMove_cases (s : State) :
    (∃ op, s.hostOp? = some op ∧ hostMove s = hostEvent op s) ∨ (s.hostOp? = none ∧ hostMove s = .next s) := by
  unfold hostMove
  cases h : s.hostOp? with
  | none => exact .inr ⟨rfl, rfl⟩
  | some op => exact .inl ⟨op, rfl, rfl⟩

/-- The block's move is the latched command, or BAD_OPCODE. -/
theorem blockMove_cases (s : State) :
    (∃ i, s.latched = .ok i ∧ blockMove s = exec i s) ∨
      (∃ r, s.latched = .error r ∧ blockMove s = .next (s.raise .badOpcode s.cmd.toNat)) := by
  unfold blockMove
  cases h : s.latched with
  | error r => exact .inr ⟨r, rfl, rfl⟩
  | ok i => exact .inl ⟨i, rfl, rfl⟩

/-- All that a step can be. -/
theorem step_cases (s : State) :
    (s.st = .busy ∧ s.hostFirst = false ∧ step s = blockMove s) ∨
      (s.st = .busy ∧ s.hostFirst = true ∧ step s = hostMove { s with delay := s.delay - 1 }) ∨
      (s.st ≠ .busy ∧ step s = hostMove s) := by
  unfold step agentsMove
  cases h : s.st with
  | busy => cases hf : s.hostFirst <;> simp
  | idle => simp
  | done => simp
  | fault c => simp

/-- What the host does not have, it takes as a free value, and only the count of draws moves. -/
theorem State.orFree_state (s : State) (v : Option Nat) :
    (s.orFree v).2 = s ∨ (s.orFree v).2 = { s with draws := s.draws + 1 } := by
  cases v
  · exact .inr rfl
  · exact .inl rfl

/-- What a host event that neither resets nor launches leaves as it was: the block state, the command, the internal registers and the
results. -/
structure Untouched (s t : State) : Prop where
  p : t.p = s.p
  st : t.st = s.st
  cmd : t.cmd = s.cmd
  latch : t.latch = s.latch
  finfo : t.finfo = s.finfo
  res0 : t.res0 = s.res0
  res1 : t.res1 = s.res1
  res2 : t.res2 = s.res2
  scan : t.scan = s.scan
  cnt : t.cnt = s.cnt
  lrN : t.lrN = s.lrN
  par : t.par = s.par
  delay : t.delay = s.delay
  sched : t.sched = s.sched

/-- All that a host event can do: reset; a launch; a write of one buffer byte, or of none. -/
theorem hostEvent_cases {op : HostOp} {s t : State} (h : hostEvent op s = .next t) :
    (op = .reset ∧ t = s.applyReset.hostNext) ∨
      (∃ v, op = .write 0 v ∧ (s.st = .idle ∨ s.st = .done) ∧
        t = ({ s.launchAfter (fitWord s.draws v) (Config.latency s.draws) with draws := s.draws + 1 } : State).hostNext) ∨
      (Untouched s t ∧ t.buf = s.buf) ∨
      (∃ a b, op = .writeBuf a b ∧ s.st ≠ .busy ∧ t = ({ s with buf := Memory.write s.buf a b } : State).hostNext) := by
  cases op with
  | write r v =>
    simp only [hostEvent, hostWrite, State.hostWrote, Host.Outcome.next.injEq] at h
    subst h
    rcases s.writeReg_cases r v with ⟨rfl, hw⟩ | ⟨rfl, hw⟩ | ⟨rfl, hw⟩ | ⟨rfl, hw⟩ | ⟨hr, hw⟩
    · rcases s.writeCmd_cases (fitWord s.draws v) with ⟨hs, hc⟩ | ⟨-, hc⟩
      · exact .inr (.inl ⟨v, rfl, hs, by rw [hw, hc]; rfl⟩)
      · rw [hw, hc]
        exact .inr (.inr (.inl ⟨by constructor <;> rfl, rfl⟩))
    · rw [hw]
      exact .inr (.inr (.inl ⟨by constructor <;> rfl, rfl⟩))
    · rw [hw]
      exact .inr (.inr (.inl ⟨by constructor <;> rfl, rfl⟩))
    · rw [hw]
      exact .inr (.inr (.inl ⟨by constructor <;> rfl, rfl⟩))
    · rw [hw, if_neg (by omega)]
      exact .inr (.inr (.inl ⟨by constructor <;> rfl, rfl⟩))
  | writeWhole =>
    simp only [hostEvent, hostWriteWhole, Host.Outcome.next.injEq] at h
    subst h
    rcases s.orFree_state s.host.lastLen with ho | ho <;> rw [ho] <;>
      exact .inr (.inr (.inl ⟨by constructor <;> rfl, rfl⟩))
  | writeBuf a b =>
    simp only [hostEvent, hostWriteBuf] at h
    split at h
    · cases h
    · rename_i hb
      simp only [Host.Outcome.next.injEq] at h
      exact .inr (.inr (.inr ⟨a, b, rfl, hb, h.symm⟩))
  | read r =>
    simp only [hostEvent, hostRead, Host.Outcome.next.injEq] at h
    subst h
    rcases s.readReg_state r with hr | hr <;> rw [hr] <;>
      exact .inr (.inr (.inl ⟨by constructor <;> rfl, rfl⟩))
  | poll r =>
    simp only [hostEvent, hostRead, Host.Outcome.next.injEq] at h
    subst h
    rcases s.readReg_state r with hr | hr <;> rw [hr] <;>
      exact .inr (.inr (.inl ⟨by constructor <;> rfl, rfl⟩))
  | reset =>
    simp only [hostEvent, Host.Outcome.next.injEq] at h
    exact .inl ⟨rfl, h.symm⟩
  | branch e r mask value target =>
    simp only [hostEvent, hostBranch, Host.Outcome.next.injEq] at h
    subst h
    rcases s.orFree_state (s.host.lastRead r) with ho | ho <;> rw [ho] <;> split <;>
      exact .inr (.inr (.inl ⟨by constructor <;> rfl, rfl⟩))
  | jump target =>
    simp only [hostEvent, Host.Outcome.next.injEq] at h
    subst h
    exact .inr (.inr (.inl ⟨by constructor <;> rfl, rfl⟩))

end Sys2Proof.Machine
end

