-- ==== Sys2Proof/Laws/PerInstr.lean ====
section
/-! SUPPORT. Laws made per instruction: the encoding of each command matches its row of spec/opcode_table.json. -/

/-- The `match` value of the instruction's row in spec/opcode_table.json, under the mask 0xFFFF00FF that every row has. -/
def Sys2Proof.Laws.TableRow.matchOf : Sys2Proof.Instr → Sys2Proof.Word
  | .addr _ => 0x00000001#32
  | .getbit _ => 0x00000002#32
  | .count _ => 0x00000003#32
  | .leadrun _ => 0x00000004#32
  | .maxrun _ => 0x00000005#32
  | .maxrunPar _ => 0x00000006#32

/-- The word of an instruction, under its row's mask, is its row's match value. -/
def Sys2Proof.Laws.TableRow.Statement (i : Sys2Proof.Instr) : Prop :=
  Sys2Proof.encode i &&& 0xFFFF00FF#32 = Sys2Proof.Laws.TableRow.matchOf i

/-- The masked word of an opcode and a TARGET is the opcode. -/
theorem Sys2Proof.Laws.TableRow.masked_word (op : BitVec 4) (t : Sys2Proof.Byte) :
    (0#16 ++ t ++ 0#4 ++ op) &&& 0xFFFF00FF#32 = op.setWidth 32 := by
  have all : ∀ (o : Fin 16) (x : Fin 256),
      (0#16 ++ BitVec.ofFin (w := 8) x ++ 0#4 ++ BitVec.ofFin (w := 4) o) &&& 0xFFFF00FF#32 =
        (BitVec.ofFin (w := 4) o).setWidth 32 := by decide +kernel
  exact all op.toFin t.toFin

theorem Sys2Proof.Laws.TableRow.addr (t : Sys2Proof.Byte) : Sys2Proof.Laws.TableRow.Statement (.addr t) :=
  Sys2Proof.Laws.TableRow.masked_word 1#4 t

theorem Sys2Proof.Laws.TableRow.getbit (t : Sys2Proof.Byte) : Sys2Proof.Laws.TableRow.Statement (.getbit t) :=
  Sys2Proof.Laws.TableRow.masked_word 2#4 t

theorem Sys2Proof.Laws.TableRow.count (t : Sys2Proof.Byte) : Sys2Proof.Laws.TableRow.Statement (.count t) :=
  Sys2Proof.Laws.TableRow.masked_word 3#4 t

theorem Sys2Proof.Laws.TableRow.leadrun (t : Sys2Proof.Byte) : Sys2Proof.Laws.TableRow.Statement (.leadrun t) :=
  Sys2Proof.Laws.TableRow.masked_word 4#4 t

theorem Sys2Proof.Laws.TableRow.maxrun (t : Sys2Proof.Byte) : Sys2Proof.Laws.TableRow.Statement (.maxrun t) :=
  Sys2Proof.Laws.TableRow.masked_word 5#4 t

theorem Sys2Proof.Laws.TableRow.maxrunPar (t : Sys2Proof.Byte) : Sys2Proof.Laws.TableRow.Statement (.maxrunPar t) :=
  Sys2Proof.Laws.TableRow.masked_word 6#4 t
end

