-- ==== Sys2Proof/Machine/HostText.lean ====
section
/-! DEFINITION. The written form of host programs (R78, R79): lines, comments, numbers and statements (DESIGN CHOICE, assumption 19). -/

namespace Sys2Proof.Machine

/-- A token of a line. -/
inductive Token where
  | word (w : List Char)
  | comma
  | colon
  | amp
  deriving DecidableEq, Repr

/-- The lines of a text. -/
def splitLines : List Char → List Char → List (List Char)
  | [], acc => [acc.reverse]
  | c :: cs, acc => if c = '\n' then acc.reverse :: splitLines cs [] else splitLines cs (c :: acc)

/-- The punctuation of R78 and R79. -/
def punctuation (c : Char) : Option Token :=
  if c = ',' then some .comma else if c = ':' then some .colon else if c = '&' then some .amp else none

/-- A character of a name or a number. -/
def isWordChar (c : Char) : Bool := c.isAlphanum || c == '_' || c == '.'

/-- Put the word read so far, if any, before the tokens that follow it. -/
def flushWord (acc : List Char) (ts : List Token) : List Token :=
  match acc with
  | [] => ts
  | _ :: _ => .word acc.reverse :: ts

/-- The tokens of a line; `;` starts a comment to its end (R78). -/
def tokens : List Char → List Char → Option (List Token)
  | [], acc => some (flushWord acc [])
  | c :: cs, acc =>
    if c = ';' then some (flushWord acc [])
    else if isWordChar c then tokens cs (c :: acc)
    else if c.isWhitespace then (tokens cs []).map (flushWord acc)
    else
      match punctuation c, tokens cs [] with
      | some t, some ts => some (flushWord acc (t :: ts))
      | _, _ => none

/-- The value of a digit. -/
def digitValue (c : Char) : Option Nat :=
  if '0' ≤ c ∧ c ≤ '9' then some (c.toNat - '0'.toNat)
  else if 'a' ≤ c ∧ c ≤ 'f' then some (c.toNat - 'a'.toNat + 10)
  else if 'A' ≤ c ∧ c ≤ 'F' then some (c.toNat - 'A'.toNat + 10)
  else none

/-- Digits in a base, after the value `acc`. -/
def digits (base : Nat) : List Char → Nat → Option Nat
  | [], acc => some acc
  | c :: cs, acc =>
    match digitValue c with
    | some d => if d < base then digits base cs (base * acc + d) else none
    | none => none

/-- A number: decimal, 0x hexadecimal or 0b binary (R78). -/
def number : List Char → Option Nat
  | '0' :: 'x' :: c :: cs => digits 16 (c :: cs) 0
  | '0' :: 'b' :: c :: cs => digits 2 (c :: cs) 0
  | c :: cs => digits 10 (c :: cs) 0
  | [] => none

/-- A register by its name (R20). -/
def registerNumber (w : List Char) : Option Nat :=
  (["CMD", "ARG0", "ARG1", "BUF_LEN", "STATUS", "FINFO", "RES0", "RES1", "RES2"].map String.toList).findIdx? (· == w)

/-- A label: a word that begins with a letter or an underscore. -/
def labelName : List Char → Option String
  | c :: cs => if c.isAlpha || c == '_' then some (String.ofList (c :: cs)) else none
  | [] => none

/-- Numbers between commas. -/
def numbers : List Token → Option (List Nat)
  | [.word w] => (number w).map fun n => [n]
  | .word w :: .comma :: ts =>
    match number w, numbers ts with
    | some n, some ns => some (n :: ns)
    | _, _ => none
  | _ => none

/-- The bytes of `.buffer`; none where a value is above 255 (R79). -/
def bufferBytes (ts : List Token) : Option (List Byte) :=
  match ts with
  | [] => some []
  | _ :: _ =>
    match numbers ts with
    | some ns => if ns.all (· < 256) then some (ns.map (BitVec.ofNat 8)) else none
    | none => none

/-- The operands of BEQ and BNE: REG & mask, value, label (R79). -/
def branchOperands : List Token → Option (Nat × Nat × Nat × String)
  | [.word r, .amp, .word k, .comma, .word v, .comma, .word l] =>
    match registerNumber r, number k, number v, labelName l with
    | some r, some k, some v, some l => some (r, k, v, l)
    | _, _, _, _ => none
  | _ => none

/-- A command statement or MAXRUN_WHOLE from its mnemonic and its operands (R78, R80). -/
def commandStmt (m : List Char) (ns : List Nat) : Option HostStmt :=
  match ns with
  | [a] =>
    if m = "ADDR".toList then some (.addr a)
    else if m = "GETBIT".toList then some (.getbit a)
    else if m = "COUNT".toList then some (.count a)
    else if m = "MAXRUN_WHOLE".toList then some (.maxrunWhole a)
    else none
  | [t, a] => if m = "MAXRUN_PAR".toList then some (.maxrunPar t a) else none
  | [t, a, w] =>
    if m = "LEADRUN".toList then some (.leadrun t a w)
    else if m = "MAXRUN".toList then some (.maxrun t a w)
    else none
  | _ => none

/-- One statement (R78 to R80). -/
def statement (m : List Char) (ts : List Token) : Option HostStmt :=
  if m = ".buffer".toList then (bufferBytes ts).map .buffer
  else if m = "READ".toList then
    match ts with
    | [.word r] => (registerNumber r).map .read
    | _ => none
  else if m = "RESET".toList then (if ts = [] then some .reset else none)
  else if m = "WAIT".toList then (if ts = [] then some .wait else none)
  else if m = "BRA".toList then
    match ts with
    | [.word l] => (labelName l).map .bra
    | _ => none
  else if m = "BEQ".toList then (branchOperands ts).map fun x => .beq x.1 x.2.1 x.2.2.1 x.2.2.2
  else if m = "BNE".toList then (branchOperands ts).map fun x => .bne x.1 x.2.1 x.2.2.1 x.2.2.2
  else
    match numbers ts with
    | some ns => commandStmt m ns
    | none => none

/-- The statements of one line: labels, and at most one other statement (R78, R79). -/
def lineStatements : List Token → Option (List HostStmt)
  | [] => some []
  | .word l :: .colon :: ts =>
    match labelName l, lineStatements ts with
    | some name, some xs => some (.label name :: xs)
    | _, _ => none
  | .word m :: ts => (statement m ts).map fun x => [x]
  | _ => none

/-- The statements of the lines of a program. -/
def linesStatements : List (List Char) → Option (List HostStmt)
  | [] => some []
  | l :: ls =>
    match (tokens l []).bind lineStatements, linesStatements ls with
    | some xs, some ys => some (xs ++ ys)
    | _, _ => none

/-- A host program from its text (R78). -/
def parseHost (text : String) : Option (List HostStmt) := linesStatements (splitLines text.toList [])

end Sys2Proof.Machine
end

