-- ==== Sys2Proof/Tests/Slice0.lean ====
section
/-! SUPPORT. Tests, each on one step or one operation, with results from 95_test_vectors.md or the rule named; and a witness for the
hypotheses of each statement. -/

-- One theorem at a time: elaborated side by side, they need more threads than the check's memory limit allows.
set_option Elab.async false

namespace Sys2Proof.Tests

open Sys2Proof.Machine

/-- A block at reset with the buffer `bytes` and the operands `a0` and `a1`, just after a launch of `w` that completes next. -/
def bench (bytes : List Byte) (w a0 a1 : Nat) : State :=
  ({ State.reset with
    buf := bytes.zipIdx.map fun x => (x.2, x.1)
    bufLen := bytes.length
    arg0 := a0
    arg1 := a1 } : State).withFetchWord 32 w

/-- The same block with a schedule of worker events. -/
def benchSched (bytes : List Byte) (w a0 : Nat) (sched : List Nat) : State := { bench bytes w a0 0 with sched := sched }

/-- A waiting block whose host has one event left. -/
def hostBench (st : BlockState) (op : HostOp) : State := { State.reset.loadHost [op] with st := st }

/-- The state of an outcome, or `d` where it has none. -/
def after (o : Host.Outcome State Fault Refusal) (d : State) : State :=
  match o with
  | .next t => t
  | .fault _ => d
  | .refused _ => d

/-- Whether an outcome is a next state. -/
def isNext (o : Host.Outcome State Fault Refusal) : Bool :=
  match o with
  | .next _ => true
  | .fault _ => false
  | .refused _ => false

theorem next_after {o : Host.Outcome State Fault Refusal} (h : isNext o = true) (d : State) : o = .next (after o d) := by
  cases o with
  | next t => rfl
  | fault r => cases h
  | refused r => cases h

/-- What the host can observe at the end of a command: STATUS, FINFO and RES0..RES2 (R259). -/
def seen (o : Host.Outcome State Fault Refusal) : Option (Word × Nat × Nat × Nat × Nat) :=
  match o with
  | .next t => some (t.st.status, t.finfoRead, t.res0, t.res1, t.res2)
  | .fault _ => none
  | .refused _ => none

/-- DONE with three results. -/
def result (r0 r1 r2 : Nat) : Option (Word × Nat × Nat × Nat × Nat) := some (2, 0, r0, r1, r2)

/-- FAULT with a code and FINFO. -/
def faulted (code info : Nat) : Option (Word × Nat × Nat × Nat × Nat) := some (BitVec.ofNat 32 (256 * code + 4), info, 0, 0, 0)

/-! ## WellFormed (R74) -/

theorem test_wellFormed_refuses_count_2 : (Instr.count 2).wellFormed = false := by decide
theorem test_wellFormed_refuses_leadrun_255 : (Instr.leadrun 255).wellFormed = false := by decide
theorem test_wellFormed_refuses_maxrun_2 : (Instr.maxrun 2).wellFormed = false := by decide
theorem test_wellFormed_refuses_maxrunPar_3 : (Instr.maxrunPar 3).wellFormed = false := by decide
theorem test_wellFormed_takes_addr_7 : (Instr.addr 7).wellFormed = true := by decide
theorem test_wellFormed_takes_count_1 : (Instr.count 1).wellFormed = true := by decide

/-! ## Decoding: words written out from R70 and R72 -/

theorem test_decode_addr : decode 0b0000000000000000_00000111_0000_0001#32 = .ok (.addr 7) := by decide
theorem test_decode_getbit : decode 0b0000000000000000_00000000_0000_0010#32 = .ok (.getbit 0) := by decide
theorem test_decode_count : decode 0b0000000000000000_00000001_0000_0011#32 = .ok (.count 1) := by decide
theorem test_decode_leadrun : decode 0b0000000000000000_10000000_0000_0100#32 = .ok (.leadrun 128) := by decide
theorem test_decode_maxrun : decode 0b0000000000000000_00000001_0000_0101#32 = .ok (.maxrun 1) := by decide
theorem test_decode_maxrunPar : decode 0b0000000000000000_00000001_0000_0110#32 = .ok (.maxrunPar 1) := by decide
theorem test_decode_zero : decode 0b0000000000000000_00000000_0000_0000#32 = .error .reservedOpcode := by decide
theorem test_decode_seven : decode 0b0000000000000000_00000000_0000_0111#32 = .error .reservedOpcode := by decide
theorem test_decode_rsv0 : decode 0b0000000000000000_00000000_0001_0011#32 = .error .reservedBits := by decide
theorem test_decode_rsv1 : decode 0b0000000000000001_00000001_0000_0011#32 = .error .reservedBits := by decide
theorem test_encode_maxrunPar : encode (.maxrunPar 1) = 0x00000106#32 := by decide
theorem test_tableWord_maxrun : decodeTableWord 32 0x105 = some (.maxrun 1) := by decide
theorem test_tableWord_reserved : decodeTableWord 32 0x107 = none := by decide

/-! ## Commands: 95_test_vectors.md, section 2 -/

/-- `ADDR 23` (2.1). -/
theorem test_addr_last_bit : seen (step (bench [0x41, 0, 0] 0x001 23 0)) = result 0 2 7 := by decide +kernel
/-- TARGET 7 is no fault (2.1). -/
theorem test_addr_ignores_target : seen (step (bench [0x41, 0, 0] 0x701 9 0)) = result 0 1 1 := by decide +kernel
theorem test_addr_past_end : seen (step (bench [0x41, 0, 0] 0x001 24 0)) = faulted 6 24 := by decide +kernel
/-- The result is 1, not the masked value (2.2). -/
theorem test_getbit_lsb : seen (step (bench [0x01] 0x002 7 0)) = result 1 0 0 := by decide +kernel
theorem test_getbit_msb : seen (step (bench [0x80] 0x002 0 0)) = result 1 0 0 := by decide +kernel
theorem test_count_ones : seen (step (bench [0x41, 0, 0] 0x103 0 0)) = result 2 0 0 := by decide +kernel
/-- An empty buffer is no fault (2.3). -/
theorem test_count_empty : seen (step (bench [] 0x003 0 0)) = result 0 0 0 := by decide +kernel
theorem test_count_bad_target : seen (step (bench [0x55] 0x203 0 0)) = faulted 2 2 := by decide +kernel
/-- S4. -/
theorem test_leadrun_wraps : seen (step (bench [0x41, 0, 0] 0x004 16 24)) = result 9 0 0 := by decide +kernel
theorem test_leadrun_window_past_buffer : seen (step (bench [0xFF] 0x104 3 20)) = result 20 0 0 := by decide +kernel
/-- The start check runs with a window of 0 (2.4). -/
theorem test_leadrun_empty_window_0 : seen (step (bench [] 0x004 0 0)) = faulted 5 0 := by decide +kernel
/-- D8. -/
theorem test_maxrun_start_normalized : seen (step (bench [0xFE] 0x105 7 9)) = result 7 0 0 := by decide +kernel
/-- R154. -/
theorem test_maxrun_first_in_scan_order : seen (step (bench [0x60, 0x03] 0x105 8 16)) = result 2 14 0 := by decide +kernel
/-- S8. -/
theorem test_maxrun_window_0 : seen (step (bench [0xEF, 0xFF] 0x105 5 0)) = result 0 5 0 := by decide +kernel
/-- S10. -/
theorem test_maxrunPar_undercount : seen (step (bench [0x00, 0x0F, 0xF0, 0x00] 0x106 2 0)) = result 4 12 0 := by decide +kernel
/-- Workers in another order (2.6, R196). -/
theorem test_maxrunPar_other_schedule : seen (step (benchSched [0x0F, 0xF0, 0xFF] 0x106 3 [2, 1, 5, 3, 2, 2, 4, 1, 0, 7, 2, 1, 1, 2])) = result 8 16 0 := by decide +kernel
theorem test_maxrunPar_more_segments_than_bytes : seen (step (bench [0xEF, 0xFF] 0x106 5 0)) = result 12 4 0 := by decide +kernel
/-- BAD_TARGET comes before BAD_SEGCOUNT (R214). -/
theorem test_maxrunPar_check_order : seen (step (bench [0x55] 0x306 0 0)) = faulted 2 3 := by decide +kernel
theorem test_maxrunPar_segcount_0 : seen (step (bench [0x55] 0x006 0 0)) = faulted 4 0 := by decide +kernel
/-- 2.6, C5. -/
theorem test_partition_7_4 : partition 7 4 = [⟨0, 8⟩, ⟨8, 8⟩, ⟨16, 8⟩, ⟨24, 32⟩] := by decide +kernel
/-- 2.7. -/
theorem test_reserved_word : seen (step (bench [] 0x10103 0 0)) = faulted 1 0x10103 := by decide +kernel
/-- 2.7, R215. -/
theorem test_bad_buflen_before_target : seen (step { bench [] 0x203 0 0 with latch := { (bench [] 0x203 0 0).latch with len := 2 ^ 29 } }) = faulted 3 (2 ^ 29) := by decide +kernel

/-! ## The host and the registers -/

/-- A CMD write in FAULT has no effect (2.7, P3). -/
theorem test_cmd_write_in_fault :
    (after (step (hostBench (.fault .badTarget) (.write 0 3))) State.reset).st = .fault .badTarget := by decide +kernel
/-- A CMD write in DONE launches (2.7). -/
theorem test_cmd_write_in_done :
    (after (step (hostBench .done (.write 0 3))) State.reset).st.status = 1#32 := by decide +kernel
/-- A buffer write while a command runs is refused (93 item 14). -/
theorem test_buffer_write_in_busy :
    isNext (step { hostBench .busy (.writeBuf 0 1) with delay := 1 }) = false := by decide +kernel
/-- Reset leaves IDLE and keeps the buffer (R240, P3). -/
theorem test_reset_keeps_buffer :
    Memory.read (after (step { hostBench (.fault .badPos) .reset with buf := [(0, 0xFE)] }) State.reset).buf 0 = some 0xFE := by
  decide +kernel
/-- A byte that the host never supplied is not invented (R51, 93 item 15). -/
theorem test_unsupplied_byte :
    isNext (step { bench [0x41, 0, 0] 0x001 23 0 with buf := [(0, 0x41)] }) = false := by decide +kernel
theorem test_memory_write_sorted : Memory.write [(0, 1), (4, 2)] 2 9 = [(0, 1), (2, 9), (4, 2)] := by decide
/-- P2: MAXRUN_WHOLE takes 8 times the BUF_LEN last written. -/
theorem test_maxrunWhole_operand :
    (after (step { State.reset with host := ⟨[.writeWhole], 0, [], some 4⟩ }) State.reset).arg1 = 32 := by decide +kernel
/-- P3: the branch on the last READ of STATUS is taken. -/
theorem test_branch_taken :
    (after (step { State.reset with host := ⟨[.branch true 4 4 4 9], 0, [⟨4, 0x204, true⟩], none⟩ }) State.reset).host.pc = 9 := by
  decide +kernel
/-- P1's first lines, as text (R78, R79). -/
theorem test_parse_program :
    parseHost "  .buffer 0x41, 0b0, 00   ; BUF\n  COUNT 0 ; c\nw: READ RES0" =
      some [.buffer [0x41, 0, 0], .count 0, .label "w", .read 6] := by decide +kernel
/-- P2: the branch on RES0 and its label. -/
theorem test_parse_branch :
    parseHost "BNE RES0 & 0xFF, 8, gap\ngap: WAIT" = some [.bne 6 255 8 "gap", .label "gap", .wait] := by decide +kernel
/-- P3: `MAXRUN 1, 7, 9` writes ARG0, ARG1 and then CMD <- 0x105. -/
theorem test_assemble_maxrun :
    assemble [.maxrun 1 7 9] = some [.write 1 7, .write 2 9, .write 0 0x105] := by decide +kernel
/-- R80: WAIT at place 1. -/
theorem test_assemble_wait :
    assemble [.read 0, .wait] =
      some [.read 0, .poll 4, .branch true 4 7 2 5, .branch true 4 7 4 5, .jump 1] := by decide +kernel
theorem test_assemble_unknown_label : assemble [.bra "x"] = none := by decide +kernel
theorem test_selector : selectTarget "ones" = 1 ∧ selectTarget "Ones" = 0 := by decide +kernel

/-! ## Witnesses: for each statement, a state and operands that meet its hypotheses -/

theorem witness_EncodeOfDecode : decode 0x105#32 = .ok (.maxrun 1) := by decide

theorem witness_StepRunsLatchedCommand :
    (bench [0x41] 0x103 0 0).blockTurn ∧ (bench [0x41] 0x103 0 0).latched = .ok (.count 1) := by
  unfold State.blockTurn
  decide +kernel
theorem witness_StepRunsLatchedCommand_hostFirst :
    ({ hostBench .busy (.read 4) with delay := 1 } : State).st = .busy ∧
      ({ hostBench .busy (.read 4) with delay := 1 } : State).hostFirst = true := by decide +kernel
theorem witness_StepRunsLatchedCommand_waiting : (hostBench .idle (.read 4)).st ≠ .busy := by decide
theorem witness_StepRunsLatchedCommand_fetch : decode (tableWord 32 6) = .ok (.maxrunPar 0) := by decide

theorem witness_LaunchChecksInOrder_opcode :
    (bench [] 0x007 0 0).blockTurn ∧ (bench [] 0x007 0 0).launchChecks = some (.badOpcode, 7) := by
  unfold State.blockTurn
  decide +kernel
theorem witness_LaunchChecksInOrder_reserved :
    (bench [] 0x10103 0 0).blockTurn ∧ (bench [] 0x10103 0 0).launchChecks = some (.badOpcode, 0x10103) := by
  unfold State.blockTurn
  decide +kernel
theorem witness_LaunchChecksInOrder_buflen :
    (({ bench [] 0x203 0 0 with latch := { (bench [] 0x203 0 0).latch with len := 2 ^ 29 } } : State)).blockTurn ∧ (({ bench [] 0x203 0 0 with latch := { (bench [] 0x203 0 0).latch with len := 2 ^ 29 } } : State)).launchChecks = some (.badBuflen, 2 ^ 29) := by
  unfold State.blockTurn
  decide +kernel
theorem witness_LaunchChecksInOrder_target :
    (bench [0x55] 0x306 0 0).blockTurn ∧ (bench [0x55] 0x306 0 0).launchChecks = some (.badTarget, 3) := by
  unfold State.blockTurn
  decide +kernel
theorem witness_LaunchChecksInOrder_segcount :
    (bench [0x55] 0x006 0 0).blockTurn ∧ (bench [0x55] 0x006 0 0).launchChecks = some (.badSegcount, 0) := by
  unfold State.blockTurn
  decide +kernel
theorem witness_LaunchChecksInOrder_start :
    (bench [0xFF] 0x104 8 5).blockTurn ∧ (bench [0xFF] 0x104 8 5).launchChecks = some (.badStart, 8) := by
  unfold State.blockTurn
  decide +kernel
theorem witness_LaunchChecksInOrder_pos :
    (bench [1] 0x002 8 0).blockTurn ∧ (bench [1] 0x002 8 0).launchChecks = some (.badPos, 8) := by
  unfold State.blockTurn
  decide +kernel
theorem witness_LaunchChecksInOrder_empty :
    (bench [] 0x006 1 0).blockTurn ∧ (bench [] 0x006 1 0).launchChecks = some (.badStart, 0) := by
  unfold State.blockTurn
  decide +kernel
theorem witness_LaunchChecksInOrder_none :
    (bench [1] 0x002 7 0).blockTurn ∧ (bench [1] 0x002 7 0).launchChecks = none ∧
      step (bench [1] 0x002 7 0) = .next (after (step (bench [1] 0x002 7 0)) State.reset) := by
  unfold State.blockTurn
  exact ⟨by decide +kernel, by decide +kernel, next_after (by decide +kernel) _⟩
theorem witness_HostWritesRegisters_fits : 0xFFFFFFFF < 2 ^ State.reset.p.idxW ∧ 4 ≤ 9 := by decide +kernel
theorem witness_HostWritesRegisters_noLaunch : BlockState.busy ≠ .idle ∧ BlockState.fault .badPos ≠ .done := by decide
theorem witness_CmdWriteLaunches :
    0x105 < 2 ^ 32 ∧ (hostBench .idle (.write 0 0x105)).cmdWriteNext 0x105 ∧ (hostBench .idle (.write 0 0x105)).st = .idle :=
  ⟨by decide, rfl, rfl⟩
theorem witness_CmdWriteLaunches_done :
    0xFFFFFFFF < 2 ^ 32 ∧ (hostBench .done (.write 0 0xFFFFFFFF)).cmdWriteNext 0xFFFFFFFF ∧
      (hostBench .done (.write 0 0xFFFFFFFF)).st = .done := ⟨by decide, rfl, rfl⟩
theorem witness_ResetEvent :
    (hostBench (.fault .badPos) .reset).hostOp? = some .reset ∧ (hostBench (.fault .badPos) .reset).hostTurn :=
  ⟨rfl, .inl (by decide)⟩
theorem witness_ResetEvent_busy :
    ({ hostBench .busy .reset with delay := 1 } : State).hostOp? = some .reset ∧
      ({ hostBench .busy .reset with delay := 1 } : State).hostTurn :=
  ⟨rfl, .inr (by decide)⟩
theorem witness_FaultIsSticky :
    ((hostBench (.fault .badPos) (.write 0 3)).st = .fault .badPos) ∧ step (hostBench (.fault .badPos) (.write 0 3)) = .next (after (step (hostBench (.fault .badPos) (.write 0 3))) State.reset) :=
  ⟨by decide +kernel, next_after (by decide +kernel) _⟩
theorem witness_FaultIsSticky_reset :
    ((hostBench (.fault .badPos) .reset).st = .fault .badPos) ∧ step (hostBench (.fault .badPos) .reset) = .next (after (step (hostBench (.fault .badPos) .reset)) State.reset) :=
  ⟨by decide +kernel, next_after (by decide +kernel) _⟩
theorem witness_BlockStateTransitions_write :
    (hostBench (.fault .badPos) (.write 0 3)).cmdWriteNext 3 ∧ (hostBench (.fault .badPos) (.write 0 3)).hostTurn :=
  ⟨rfl, .inl (by decide)⟩
theorem witness_BlockStateTransitions_block :
    (bench [0x41] 0x103 0 0).blockTurn ∧
      step (bench [0x41] 0x103 0 0) = .next (after (step (bench [0x41] 0x103 0 0)) State.reset) :=
  ⟨⟨by decide +kernel, by decide +kernel⟩, next_after (by decide +kernel) _⟩
theorem witness_BlockStateTransitions_checks :
    (bench [0x41] 0x103 0 0).launchChecks = none ∧ (bench [0x55] 0x306 0 0).launchChecks = some (.badTarget, 3) ∧
      step (bench [0x55] 0x306 0 0) = .next (after (step (bench [0x55] 0x306 0 0)) State.reset) :=
  ⟨by decide +kernel, by decide +kernel, next_after (by decide +kernel) _⟩
theorem witness_BlockStateTransitions_reset :
    (hostBench .done .reset).hostTurn ∧ (hostBench .done .reset).hostOp? = some .reset := ⟨.inl (by decide), rfl⟩
theorem witness_BusyEnds :
    ((bench [0x41] 0x103 0 0).st = .busy) ∧ step (bench [0x41] 0x103 0 0) = .next (after (step (bench [0x41] 0x103 0 0)) State.reset) :=
  ⟨by decide +kernel, next_after (by decide +kernel) _⟩
theorem witness_BusyEnds_hostFirst :
    (({ hostBench .busy (.read 4) with delay := 1 } : State).st = .busy) ∧ step ({ hostBench .busy (.read 4) with delay := 1 }) = .next (after (step ({ hostBench .busy (.read 4) with delay := 1 })) State.reset) :=
  ⟨by decide +kernel, next_after (by decide +kernel) _⟩
theorem witness_BusyKeepsCommandAndBuffer :
    ({ hostBench .busy (.write 0 3) with delay := 1 } : State).st = .busy ∧
      step { hostBench .busy (.write 0 3) with delay := 1 } =
        .next (after (step { hostBench .busy (.write 0 3) with delay := 1 }) State.reset) ∧
      (after (step { hostBench .busy (.write 0 3) with delay := 1 }) State.reset).st = .busy :=
  ⟨by decide +kernel, next_after (by decide +kernel) _, by decide +kernel⟩
theorem witness_BufferWrittenByHostOnly :
    step (hostBench .idle (.writeBuf 2 7)) = .next (after (step (hostBench .idle (.writeBuf 2 7))) State.reset) :=
  next_after (by decide +kernel) _
theorem witness_BufferWriteOutsideBusy :
    (hostBench .idle (.writeBuf 2 7)).hostOp? = some (.writeBuf 2 7) ∧ (hostBench .idle (.writeBuf 2 7)).hostTurn ∧
      (hostBench .idle (.writeBuf 2 7)).st ≠ .busy := ⟨rfl, .inl (by decide), by decide⟩
theorem witness_BufferWriteOutsideBusy_busy :
    ({ hostBench .busy (.writeBuf 2 7) with delay := 1 } : State).hostOp? = some (.writeBuf 2 7) ∧
      ({ hostBench .busy (.writeBuf 2 7) with delay := 1 } : State).hostTurn := ⟨rfl, .inr (by decide)⟩

/-! ### Commands -/

theorem witness_CommandFrame :
    exec (.leadrun 0) (bench [0x41, 0, 0] 0x004 16 24) = .next (after (exec (.leadrun 0) (bench [0x41, 0, 0] 0x004 16 24)) State.reset) :=
  next_after (by decide +kernel) _
theorem witness_CompletedCommandFrame_addr :
    exec (.addr 0) (bench [0x41] 0x001 3 0) = .next (after (exec (.addr 0) (bench [0x41] 0x001 3 0)) State.reset) ∧
      (after (exec (.addr 0) (bench [0x41] 0x001 3 0)) State.reset).st = .done :=
  ⟨next_after (by decide +kernel) _, by decide +kernel⟩
theorem witness_CompletedCommandFrame_getbit :
    exec (.getbit 0) (bench [0x41] 0x002 3 0) = .next (after (exec (.getbit 0) (bench [0x41] 0x002 3 0)) State.reset) ∧
      (after (exec (.getbit 0) (bench [0x41] 0x002 3 0)) State.reset).st = .done :=
  ⟨next_after (by decide +kernel) _, by decide +kernel⟩
theorem witness_CompletedCommandFrame_count :
    exec (.count 1) (bench [0x41] 0x103 0 0) = .next (after (exec (.count 1) (bench [0x41] 0x103 0 0)) State.reset) ∧
      (after (exec (.count 1) (bench [0x41] 0x103 0 0)) State.reset).st = .done :=
  ⟨next_after (by decide +kernel) _, by decide +kernel⟩
theorem witness_CompletedCommandFrame_leadrun :
    exec (.leadrun 0) (bench [0x41] 0x004 2 9) = .next (after (exec (.leadrun 0) (bench [0x41] 0x004 2 9)) State.reset) ∧
      (after (exec (.leadrun 0) (bench [0x41] 0x004 2 9)) State.reset).st = .done :=
  ⟨next_after (by decide +kernel) _, by decide +kernel⟩
theorem witness_CompletedCommandFrame_maxrun :
    exec (.maxrun 0) (bench [0x41] 0x005 2 9) = .next (after (exec (.maxrun 0) (bench [0x41] 0x005 2 9)) State.reset) ∧
      (after (exec (.maxrun 0) (bench [0x41] 0x005 2 9)) State.reset).st = .done :=
  ⟨next_after (by decide +kernel) _, by decide +kernel⟩
theorem witness_CompletedCommandFrame_maxrunPar :
    exec (.maxrunPar 0) (bench [0x41] 0x006 1 0) = .next (after (exec (.maxrunPar 0) (bench [0x41] 0x006 1 0)) State.reset) ∧
      (after (exec (.maxrunPar 0) (bench [0x41] 0x006 1 0)) State.reset).st = .done :=
  ⟨next_after (by decide +kernel) _, by decide +kernel⟩
theorem witness_FaultingCommandFrame :
    exec (.maxrunPar 3) (bench [0x55] 0x306 0 0) = .next (after (exec (.maxrunPar 3) (bench [0x55] 0x306 0 0)) State.reset) ∧
      (after (exec (.maxrunPar 3) (bench [0x55] 0x306 0 0)) State.reset).st = .fault .badTarget :=
  ⟨next_after (by decide +kernel) _, by decide +kernel⟩
theorem witness_AddrCompletes :
    (bench [0x41] 0x001 7 0).bufFits ∧ (bench [0x41] 0x001 7 0).pos < (bench [0x41] 0x001 7 0).bitlen ∧
      Memory.read (bench [0x41] 0x001 7 0).buf ((bench [0x41] 0x001 7 0).pos / 8) = some 0x41 := by
  unfold State.bufFits
  decide +kernel
theorem witness_GetbitCompletes :
    (bench [0x41] 0x002 7 0).bufFits ∧ (bench [0x41] 0x002 7 0).pos < (bench [0x41] 0x002 7 0).bitlen ∧
      Memory.bitAt (bench [0x41] 0x002 7 0).buf (bench [0x41] 0x002 7 0).pos = some 1 := by
  unfold State.bufFits
  decide +kernel
theorem witness_AddrAndGetbitAgree :
    8 ≤ (bench [0x41] 0x001 1 0).p.idxW ∧
      exec (.addr 0) (bench [0x41] 0x001 1 0) = .next (after (exec (.addr 0) (bench [0x41] 0x001 1 0)) State.reset) ∧
      exec (.getbit 0) (bench [0x41] 0x001 1 0) = .next (after (exec (.getbit 0) (bench [0x41] 0x001 1 0)) State.reset) ∧
      (after (exec (.addr 0) (bench [0x41] 0x001 1 0)) State.reset).st = .done ∧
      (after (exec (.getbit 0) (bench [0x41] 0x001 1 0)) State.reset).st = .done :=
  ⟨by decide +kernel, next_after (by decide +kernel) _, next_after (by decide +kernel) _, by decide +kernel, by decide +kernel⟩
theorem witness_CountCompletes :
    (bench [0x41, 0] 0x103 0 0).bufFits ∧ (1#8).toNat ≤ 1 ∧ (bench [0x41, 0] 0x103 0 0).supplied := by
  unfold State.bufFits State.supplied
  decide +kernel
theorem witness_CountsAddUpToBitlen : (bench [0x41, 0] 0x103 0 0).bufFits ∧ (bench [0x41, 0] 0x103 0 0).supplied := by
  unfold State.bufFits State.supplied
  decide +kernel
/-- A start at the last bit and a window past the buffer. -/
theorem witness_LeadrunClosedForm :
    (bench [0x81] 0x104 7 16).bufFits ∧ (1#8).toNat ≤ 1 ∧ (bench [0x81] 0x104 7 16).start < (bench [0x81] 0x104 7 16).bitlen ∧
      (bench [0x81] 0x104 7 16).window < 2 ^ (bench [0x81] 0x104 7 16).p.idxW ∧ (bench [0x81] 0x104 7 16).supplied := by
  unfold State.bufFits State.supplied
  decide +kernel
theorem witness_LeadrunBounds_short :
    (bench [0x81] 0x104 7 16).window < 2 ^ (bench [0x81] 0x104 7 16).p.idxW ∧
      exec (.leadrun 1) (bench [0x81] 0x104 7 16) = .next (after (exec (.leadrun 1) (bench [0x81] 0x104 7 16)) State.reset) ∧
      (after (exec (.leadrun 1) (bench [0x81] 0x104 7 16)) State.reset).st = .done ∧
      (after (exec (.leadrun 1) (bench [0x81] 0x104 7 16)) State.reset).res0 = 2 :=
  ⟨by decide +kernel, next_after (by decide +kernel) _, by decide +kernel, by decide +kernel⟩
theorem witness_LeadrunBounds_whole :
    (bench [0xFF] 0x104 3 5).window < 2 ^ (bench [0xFF] 0x104 3 5).p.idxW ∧
      exec (.leadrun 1) (bench [0xFF] 0x104 3 5) = .next (after (exec (.leadrun 1) (bench [0xFF] 0x104 3 5)) State.reset) ∧
      (after (exec (.leadrun 1) (bench [0xFF] 0x104 3 5)) State.reset).st = .done ∧
      (after (exec (.leadrun 1) (bench [0xFF] 0x104 3 5)) State.reset).res0 = 5 :=
  ⟨by decide +kernel, next_after (by decide +kernel) _, by decide +kernel, by decide +kernel⟩
theorem witness_LeadrunLongWindow_differs :
    (bench [0x81] 0x104 7 16).supplied ∧ 5 < (bench [0x81] 0x104 7 16).bitlen ∧ ¬ bitIs (bench [0x81] 0x104 7 16).buf 5 1 := by
  unfold State.supplied bitIs
  decide +kernel
theorem witness_LeadrunLongWindow_all :
    (bench [0xFF] 0x104 3 20).window < 2 ^ (bench [0xFF] 0x104 3 20).p.idxW ∧
      exec (.leadrun 1) (bench [0xFF] 0x104 3 20) = .next (after (exec (.leadrun 1) (bench [0xFF] 0x104 3 20)) State.reset) ∧
      (after (exec (.leadrun 1) (bench [0xFF] 0x104 3 20)) State.reset).st = .done ∧
      8 ≤ (after (exec (.leadrun 1) (bench [0xFF] 0x104 3 20)) State.reset).res0 :=
  ⟨by decide +kernel, next_after (by decide +kernel) _, by decide +kernel, by decide +kernel⟩
theorem witness_LeadrunLongWindow_supplied : (bench [0xFF] 0x104 3 20).supplied := by
  unfold State.supplied
  decide +kernel
theorem witness_MaxrunClosedForm :
    (bench [0x81] 0x105 7 16).bufFits ∧ (1#8).toNat ≤ 1 ∧ (bench [0x81] 0x105 7 16).start < (bench [0x81] 0x105 7 16).bitlen ∧
      (bench [0x81] 0x105 7 16).window < 2 ^ (bench [0x81] 0x105 7 16).p.idxW ∧ (bench [0x81] 0x105 7 16).supplied := by
  unfold State.bufFits State.supplied
  decide +kernel
theorem witness_MaxrunStartNormalized :
    (bench [0xFE] 0x105 7 9).window < 2 ^ (bench [0xFE] 0x105 7 9).p.idxW ∧
      exec (.maxrun 1) (bench [0xFE] 0x105 7 9) = .next (after (exec (.maxrun 1) (bench [0xFE] 0x105 7 9)) State.reset) ∧
      (after (exec (.maxrun 1) (bench [0xFE] 0x105 7 9)) State.reset).st = .done ∧
      0 < (after (exec (.maxrun 1) (bench [0xFE] 0x105 7 9)) State.reset).res0 :=
  ⟨by decide +kernel, next_after (by decide +kernel) _, by decide +kernel, by decide +kernel⟩
theorem witness_MaxrunStartNormalized_lastBit :
    (⟨⟨0xFE, 0, 7, 7⟩, 0, ⟨0, 7⟩, ⟨0, 7⟩⟩ : ScanRegs).cursor.bit ≠ 1 ∧
      (⟨⟨0xFE, 0, 7, 7⟩, 0, ⟨0, 7⟩, ⟨0, 7⟩⟩ : ScanRegs).cursor.pos + 1 = 8 * 1 := by decide +kernel
theorem witness_MaxrunAtLeastLeadrun :
    (bench [0xC3] 0x105 6 8).window < 2 ^ (bench [0xC3] 0x105 6 8).p.idxW ∧
      exec (.maxrun 1) (bench [0xC3] 0x105 6 8) = .next (after (exec (.maxrun 1) (bench [0xC3] 0x105 6 8)) State.reset) ∧
      exec (.leadrun 1) (bench [0xC3] 0x105 6 8) = .next (after (exec (.leadrun 1) (bench [0xC3] 0x105 6 8)) State.reset) ∧
      (after (exec (.maxrun 1) (bench [0xC3] 0x105 6 8)) State.reset).st = .done ∧
      (after (exec (.leadrun 1) (bench [0xC3] 0x105 6 8)) State.reset).st = .done ∧
      (after (exec (.maxrun 1) (bench [0xC3] 0x105 6 8)) State.reset).res0 =
        (after (exec (.leadrun 1) (bench [0xC3] 0x105 6 8)) State.reset).res0 ∧
      0 < (after (exec (.leadrun 1) (bench [0xC3] 0x105 6 8)) State.reset).res0 :=
  ⟨by decide +kernel, next_after (by decide +kernel) _, next_after (by decide +kernel) _, by decide +kernel,
    by decide +kernel, by decide +kernel, by decide +kernel⟩
theorem witness_MaxrunLongWindow_all :
    (bench [0xFF] 0x105 5 20).window < 2 ^ (bench [0xFF] 0x105 5 20).p.idxW ∧
      exec (.maxrun 1) (bench [0xFF] 0x105 5 20) = .next (after (exec (.maxrun 1) (bench [0xFF] 0x105 5 20)) State.reset) ∧
      (after (exec (.maxrun 1) (bench [0xFF] 0x105 5 20)) State.reset).st = .done :=
  ⟨by decide +kernel, next_after (by decide +kernel) _, by decide +kernel⟩
theorem witness_MaxrunLongWindow_bits :
    (bench [0xFF] 0x105 5 20).supplied ∧
      ∀ p, p < (bench [0xFF] 0x105 5 20).bitlen → bitIs (bench [0xFF] 0x105 5 20).buf p 1 := by
  unfold State.supplied bitIs
  decide +kernel
theorem witness_MaxrunLongWindow_differs :
    (bench [0xFE] 0x105 5 20).supplied ∧ 7 < (bench [0xFE] 0x105 5 20).bitlen ∧ ¬ bitIs (bench [0xFE] 0x105 5 20).buf 7 1 ∧
      isNext (exec (.maxrun 1) (bench [0xFE] 0x105 5 20)) = true := by
  unfold State.supplied bitIs
  decide +kernel

/-! ### Cursor and segments -/

/-- The cursor at the last bit of a byte, where it enters the next one. -/
theorem witness_CursorInvariantKept : (⟨0x41, 0, 7, 7⟩ : Cursor).Inv [(0, 0x41), (1, 0)] 2 :=
  ⟨by decide, by decide, by decide, by decide, by decide⟩
theorem witness_CursorInvariantKept_init :
    15 < 8 * 2 ∧ cursorInit [(0, 0x41), (1, 0)] 2 15 = .next ⟨0, 1, 7, 15⟩ := ⟨by decide, rfl⟩
theorem witness_CursorInvariantKept_wraps :
    (⟨0, 1, 7, 15⟩ : Cursor).Inv [(0, 0x41), (1, 0)] 2 ∧
      cursorAdvance [(0, 0x41), (1, 0)] 2 ⟨0, 1, 7, 15⟩ = .next ⟨0x41, 0, 0, 0⟩ :=
  ⟨⟨by decide, by decide, by decide, by decide, by decide⟩, rfl⟩
theorem witness_CursorPositionLaw :
    15 < 8 * 2 ∧ ∀ a, a < 2 → (Memory.read [(0, 0x41), (1, 0)] a).isSome = true := by decide
theorem witness_PartitionExact : 1 ≤ 4 ∧ 4 ≤ 7 := by decide
theorem witness_SegmentsInsideBuffer :
    (bench [] 0x106 1 0).bitlen = 0 ∧ (1#8).toNat ≤ 1 ∧ (bench [] 0x106 1 0).segCount ≠ 0 := by decide +kernel
theorem witness_MaxrunParFoldsSegmentRuns :
    (bench [0xF0, 0xF0] 0x106 2 0).bufFits ∧ (1#8).toNat ≤ 1 ∧ (bench [0xF0, 0xF0] 0x106 2 0).segCount ≠ 0 ∧
      (bench [0xF0, 0xF0] 0x106 2 0).n ≠ 0 ∧ (bench [0xF0, 0xF0] 0x106 2 0).supplied := by
  unfold State.bufFits State.supplied
  decide +kernel
theorem witness_MaxrunParIgnoresSchedule :
    (bench [0xF0, 0xF0] 0x106 2 0).buf = (benchSched [0xF0, 0xF0] 0x106 2 [3, 1, 2]).buf ∧
      (bench [0xF0, 0xF0] 0x106 2 0).latch = (benchSched [0xF0, 0xF0] 0x106 2 [3, 1, 2]).latch ∧
      seen (exec (.maxrunPar 1) (bench [0xF0, 0xF0] 0x106 2 0)) = result 4 0 0 ∧
      seen (exec (.maxrunPar 1) (benchSched [0xF0, 0xF0] 0x106 2 [3, 1, 2])) = result 4 0 0 := by decide +kernel
theorem witness_MaxrunParIgnoresSchedule_slots :
    (after (exec (.maxrunPar 1) (bench [0xEF, 0xFF] 0x106 3 0)) State.reset).par.seg[2]? = some ⟨0, 16⟩ ∧
      (after (exec (.maxrunPar 1) (bench [0xEF, 0xFF] 0x106 5 0)) State.reset).par.seg[4]? = some ⟨0, 16⟩ ∧
      seen (exec (.maxrunPar 1) (bench [0xEF, 0xFF] 0x106 3 0)) = result 12 4 0 ∧
      seen (exec (.maxrunPar 1) (bench [0xEF, 0xFF] 0x106 5 0)) = result 12 4 0 := by decide +kernel
theorem witness_MaxrunParPicksFirstLongest :
    exec (.maxrunPar 1) (bench [0xF0, 0xF0] 0x106 2 0) = .next (after (exec (.maxrunPar 1) (bench [0xF0, 0xF0] 0x106 2 0)) State.reset) ∧
      (after (exec (.maxrunPar 1) (bench [0xF0, 0xF0] 0x106 2 0)) State.reset).st = .done :=
  ⟨next_after (by decide +kernel) _, by decide +kernel⟩
theorem witness_MaxrunParPicksFirstLongest_zero :
    exec (.maxrunPar 1) (bench [0, 0] 0x106 4 0) = .next (after (exec (.maxrunPar 1) (bench [0, 0] 0x106 4 0)) State.reset) ∧
      (after (exec (.maxrunPar 1) (bench [0, 0] 0x106 4 0)) State.reset).st = .done ∧
      ∀ y ∈ (after (exec (.maxrunPar 1) (bench [0, 0] 0x106 4 0)) State.reset).par.sr, y.run.len = 0 :=
  ⟨next_after (by decide +kernel) _, by decide +kernel, by decide +kernel⟩
theorem witness_CombineTreeIsFold :
    (CombineTree.node (.leaf ⟨4, 0⟩) (.leaf ⟨4, 8⟩)).leaves = [(⟨⟨4, 0⟩, true⟩ : Slot), ⟨⟨4, 8⟩, true⟩].map (·.run) := by decide
theorem witness_MaxrunParOneSegment :
    (bench [0x0F, 0xF0, 0xFF] 0x106 1 0).segCount = 1 ∧
      seen (exec (.maxrunPar 1) (bench [0x0F, 0xF0, 0xFF] 0x106 1 0)) = result 8 4 0 ∧
      seen (exec (.maxrun 1) (bench [0x0F, 0xF0, 0xFF] 0x106 1 0).wholeWindow) = result 8 4 0 := by decide +kernel
theorem witness_MaxrunParManySegments :
    (bench [0xEF, 0xFF] 0x106 5 0).n < (bench [0xEF, 0xFF] 0x106 5 0).segCount ∧
      seen (exec (.maxrunPar 1) (bench [0xEF, 0xFF] 0x106 5 0)) = result 12 4 0 ∧
      seen (exec (.maxrun 1) (bench [0xEF, 0xFF] 0x106 5 0).wholeWindow) = result 12 4 0 := by decide +kernel
theorem witness_MaxrunParUndercounts :
    seen (exec (.maxrunPar 1) (bench [0x00, 0x0F, 0xF0, 0x00] 0x106 2 0)) = result 4 12 0 ∧
      seen (exec (.maxrun 1) (bench [0x00, 0x0F, 0xF0, 0x00] 0x106 2 0).wholeWindow) = result 8 12 0 := by decide +kernel

/-! ### Whole-machine rules and the host -/

theorem witness_SuppliedCommandsEnd : (bench [0xF0, 0xF0] 0x106 2 0).supplied := by
  unfold State.supplied
  decide +kernel
/-- Two states that differ in what an earlier command left. -/
theorem witness_NoCommandDependsOnEarlier :
    (bench [0x41] 0x103 0 0).p = ({ bench [0x41] 0x103 0 0 with cnt := 9, res0 := 7 } : State).p ∧
      (bench [0x41] 0x103 0 0).latch = ({ bench [0x41] 0x103 0 0 with cnt := 9, res0 := 7 } : State).latch ∧
      (bench [0x41] 0x103 0 0).buf = ({ bench [0x41] 0x103 0 0 with cnt := 9, res0 := 7 } : State).buf ∧
      (bench [0x41] 0x103 0 0).draws = ({ bench [0x41] 0x103 0 0 with cnt := 9, res0 := 7 } : State).draws ∧
      exec (.count 1) (bench [0x41] 0x103 0 0) = .next (after (exec (.count 1) (bench [0x41] 0x103 0 0)) State.reset) :=
  ⟨rfl, rfl, rfl, rfl, next_after (by decide +kernel) _⟩
/-- A running COUNT of a supplied byte meets the invariants, and its step is a next state. -/
theorem witness_InvKeptByEveryStep :
    (bench [0x41] 0x103 0 0).Inv ∧
      step (bench [0x41] 0x103 0 0) = .next (after (step (bench [0x41] 0x103 0 0)) State.reset) :=
  ⟨⟨by decide +kernel,
      ⟨by decide +kernel, by decide +kernel, by decide +kernel, by decide +kernel, by decide +kernel, by decide +kernel,
        by decide +kernel⟩,
      ⟨by decide +kernel, by decide +kernel, by decide +kernel⟩⟩,
    next_after (by decide +kernel) _⟩
theorem fit_zero (p : Params) : ScanRegs.zero.Fit p := by
  constructor <;> first | exact Nat.two_pow_pos _ | decide
theorem witness_InternalsFitKeptByEveryStep : (bench [0x41] 0x103 0 0).InternalsFit := by
  refine ⟨fit_zero _, by decide +kernel, by decide +kernel, ⟨by decide +kernel, ?_, ?_, by decide +kernel, ?_, ?_, by decide +kernel⟩⟩
  · intro x hx
    cases hx
  · intro x hx
    cases hx
  · intro x hx
    rw [List.eq_of_mem_replicate hx]
    exact fit_zero _
  · intro x hx i hi
    rw [List.eq_of_mem_replicate hx] at hi
    cases hi
theorem witness_LatchOfCmdKeptByEveryStep :
    (bench [0x41] 0x103 0 0).LatchOfCmd ∧
      step (bench [0x41] 0x103 0 0) = .next (after (step (bench [0x41] 0x103 0 0)) State.reset) :=
  ⟨fun _ => by decide +kernel, next_after (by decide +kernel) _⟩
theorem witness_ParametersFixed :
    step (hostBench .done .reset) = .next (after (step (hostBench .done .reset)) State.reset) :=
  next_after (by decide +kernel) _
theorem witness_CommandStatementLaunches :
    (hostBench .done .reset).st = .done ∧ 255 < 256 ∧ 15 < 16 ∧ 2 ^ 32 - 1 < 2 ^ (hostBench .done .reset).p.idxW ∧
      0 < 2 ^ (hostBench .done .reset).p.idxW := by decide +kernel
theorem witness_WaitEndsInDoneOrFault : 9 ≠ (hostBench .done (.poll 4)).host.pc + 2 := by decide
theorem witness_BranchesUseLastRead :
    (⟨[], 0, [⟨4, 0x204, true⟩], none⟩ : HostState).lastRead 4 = some 0x204 := by decide
theorem witness_TargetSelector_other : "Ones" ∉ ["0", "zero", "zeros", "1", "one", "ones"] := by decide

end Sys2Proof.Tests
end

section
/-! PROOFS. What every step keeps: the rule that reduces a step to its host events and command meanings, the parameters (R6, R7),
and the widths of the host-visible state (R9, R20, R32). -/

namespace Sys2Proof.Machine

variable {s t : State}

/-! ### The step, by the agent that moves -/

theorem step_of_blockTurn (h : s.blockTurn) : step s = blockMove s := by
  obtain ⟨hbusy, hfirst⟩ := h
  rcases step_cases s with ⟨-, -, hs⟩ | ⟨-, hf, -⟩ | ⟨hb, -⟩
  · exact hs
  · simp [hfirst] at hf
  · exact absurd hbusy hb

theorem step_of_hostFirst (hbusy : s.st = .busy) (hfirst : s.hostFirst = true) :
    step s = hostMove { s with delay := s.delay - 1 } := by
  rcases step_cases s with ⟨-, hf, -⟩ | ⟨-, -, hs⟩ | ⟨hb, -⟩
  · simp [hfirst] at hf
  · exact hs
  · exact absurd hbusy hb

theorem step_of_waiting (hwait : s.st ≠ .busy) : step s = hostMove s := by
  rcases step_cases s with ⟨hb, -, -⟩ | ⟨hb, -, -⟩ | ⟨-, hs⟩
  · exact absurd hb hwait
  · exact absurd hb hwait
  · exact hs

theorem blockMove_of_latched {i : Instr} (h : s.latched = .ok i) : blockMove s = exec i s := by
  rw [blockMove, h]

/-- A launch with no latency left has its command run before any host event. -/
theorem State.withFetchWord_blockTurn (s : State) (nbits w : Nat) : (s.withFetchWord nbits w).blockTurn :=
  ⟨rfl, rfl⟩

theorem State.withFetchWord_latched (s : State) (nbits w : Nat) :
    (s.withFetchWord nbits w).latched = decode (tableWord nbits w) := rfl

/-- Settles O5, from the rule for each agent's turn. -/
theorem stepRunsLatchedCommand : Obligations.StepRunsLatchedCommand := by
  have hblock (s : State) (i : Instr) (hturn : s.blockTurn) (hi : s.latched = .ok i) : step s = exec i s :=
    (step_of_blockTurn hturn).trans (blockMove_of_latched hi)
  refine ⟨hblock, fun _ => step_of_hostFirst, fun _ => step_of_waiting, fun s nbits w i hi => ?_⟩
  exact hblock _ i (s.withFetchWord_blockTurn nbits w) ((s.withFetchWord_latched nbits w).trans hi)

/-! ### From the events and the commands to the step -/

/-- A property that the spending of latency, every host event, every command and every fault entry keep, every step keeps. -/
theorem step_preserves {P : State → Prop}
    (hdelay : ∀ (s : State) (d : Nat), P s → P { s with delay := d })
    (hhost : ∀ (op : HostOp) (s t : State), P s → hostEvent op s = .next t → P t)
    (hexec : ∀ (i : Instr) (s t : State), P s → exec i s = .next t → P t)
    (hraise : ∀ (s : State) (c : FaultCode) (v : Nat), P s → P (s.raise c v))
    (hs : P s) (hstep : step s = .next t) : P t := by
  have hmove (u : State) (hu : P u) (h : hostMove u = .next t) : P t := by
    rcases hostMove_cases u with ⟨op, -, hop⟩ | ⟨-, hnone⟩
    · exact hhost op u t hu (hop ▸ h)
    · obtain rfl : u = t := by simpa [hnone] using h
      exact hu
  rcases step_cases s with ⟨-, -, hb⟩ | ⟨-, -, hh⟩ | ⟨-, hh⟩
  · rcases blockMove_cases s with ⟨i, -, hi⟩ | ⟨r, -, hr⟩
    · exact hexec i s t hs (by rw [← hi, ← hb, hstep])
    · obtain rfl : s.raise .badOpcode s.cmd.toNat = t := by simpa [hb, hr] using hstep
      exact hraise s _ _ hs
  · exact hmove _ (hdelay s _ hs) (hh ▸ hstep)
  · exact hmove s hs (hh ▸ hstep)

/-- A command that answers a next state has entered FAULT, or has changed only internal registers and the schedule before it
completed. -/
theorem exec_cases {i : Instr} (h : exec i s = .next t) :
    (∃ c v, t = s.raise c v) ∨
      ∃ scan cnt lrN par sched r0 r1 r2,
        t = ({ s with scan := scan, cnt := cnt, lrN := lrN, par := par, sched := sched } : State).finish r0 r1 r2 := by
  cases i with
  | addr x =>
    rcases execAddr_eq_next.mp h with ⟨v, -, ht⟩ | ⟨-, b, -, ht⟩
    · exact .inl ⟨_, _, ht⟩
    · exact .inr ⟨_, _, _, _, _, _, _, _, ht⟩
  | getbit x =>
    rcases execGetbit_eq_next.mp h with ⟨v, -, ht⟩ | ⟨-, b, -, ht⟩
    · exact .inl ⟨_, _, ht⟩
    · exact .inr ⟨_, _, _, _, _, _, _, _, ht⟩
  | count x =>
    rcases execCount_eq_next.mp h with ⟨v, -, ht⟩ | ⟨-, c, -, ht⟩
    · exact .inl ⟨_, _, ht⟩
    · exact .inr ⟨_, _, _, _, _, _, _, _, ht⟩
  | leadrun x =>
    rcases execLeadrun_eq_next.mp h with ⟨v, -, ht⟩ | ⟨-, c, -, e, -, ht⟩
    · exact .inl ⟨_, _, ht⟩
    · exact .inr ⟨_, _, _, _, _, _, _, _, ht⟩
  | maxrun x =>
    rcases execMaxrun_eq_next.mp h with ⟨v, -, ht⟩ | ⟨-, r, -, ht⟩
    · exact .inl ⟨_, _, ht⟩
    · exact .inr ⟨_, _, _, _, _, _, _, _, ht⟩
  | maxrunPar x =>
    rcases execMaxrunPar_eq_next.mp h with ⟨v, -, ht⟩ | ⟨-, e, -, ht⟩
    · exact .inl ⟨_, _, ht⟩
    · exact .inr ⟨_, _, _, _, _, _, _, _, ht⟩

/-! ### The parameters -/

theorem hostEvent_p {op : HostOp} (h : hostEvent op s = .next t) : t.p = s.p := by
  rcases hostEvent_cases h with ⟨-, rfl⟩ | ⟨v, -, -, rfl⟩ | ⟨hkept, -⟩ | ⟨a, b, -, -, rfl⟩
  · rfl
  · rfl
  · exact hkept.p
  · rfl

theorem exec_p {i : Instr} (h : exec i s = .next t) : t.p = s.p := by
  rcases exec_cases h with ⟨c, v, rfl⟩ | ⟨scan, cnt, lrN, par, sched, r0, r1, r2, rfl⟩
  · rfl
  · rfl

/-- Settles O53: no event, command or fault entry writes the parameters. -/
theorem parametersFixed : Obligations.ParametersFixed := fun s _ =>
  step_preserves (P := fun u => u.p = s.p)
    (fun _ _ hu => hu)
    (fun _ _ _ hu h => (hostEvent_p h).trans hu)
    (fun _ _ _ hu h => (exec_p h).trans hu)
    (fun _ _ _ hu => hu)
    rfl

/-! ### The invariant of the host-visible state -/

/-- All that the invariant says, field by field. -/
theorem State.inv_iff : s.Inv ↔
    Memory.wf s.buf ∧
      (s.arg0 < 2 ^ s.p.idxW ∧ s.arg1 < 2 ^ s.p.idxW ∧ s.bufLen < 2 ^ s.p.idxW) ∧
      (s.finfo < 2 ^ s.p.idxW ∧ s.res0 < 2 ^ s.p.idxW ∧ s.res1 < 2 ^ s.p.idxW ∧ s.res2 < 2 ^ s.p.idxW) ∧
      (s.latch.a0 < 2 ^ s.p.idxW ∧ s.latch.a1 < 2 ^ s.p.idxW ∧ s.latch.len < 2 ^ s.p.idxW) := by
  constructor
  · rintro ⟨hbuf, ⟨ha0, ha1, hlen, hfin, hr0, hr1, hr2⟩, ⟨hl0, hl1, hll⟩⟩
    exact ⟨hbuf, ⟨ha0, ha1, hlen⟩, ⟨hfin, hr0, hr1, hr2⟩, hl0, hl1, hll⟩
  · rintro ⟨hbuf, ⟨ha0, ha1, hlen⟩, ⟨hfin, hr0, hr1, hr2⟩, hl0, hl1, hll⟩
    exact ⟨hbuf, ⟨ha0, ha1, hlen, hfin, hr0, hr1, hr2⟩, ⟨hl0, hl1, hll⟩⟩

/-! The fields of which the invariant does not speak. -/

@[simp] theorem State.inv_delay (d : Nat) : ({ s with delay := d } : State).Inv ↔ s.Inv := by simp only [State.inv_iff]
@[simp] theorem State.inv_draws (d : Nat) : ({ s with draws := d } : State).Inv ↔ s.Inv := by simp only [State.inv_iff]
@[simp] theorem State.inv_host (x : HostState) : ({ s with host := x } : State).Inv ↔ s.Inv := by simp only [State.inv_iff]
@[simp] theorem State.inv_hostGoto (pc : Nat) : (s.hostGoto pc).Inv ↔ s.Inv := s.inv_host _
@[simp] theorem State.inv_hostNext : s.hostNext.Inv ↔ s.Inv := s.inv_host _
@[simp] theorem State.inv_hostSaw (e : ReadEvent) : (s.hostSaw e).Inv ↔ s.Inv := s.inv_host _

@[simp] theorem State.inv_hostWrote (r v : Nat) : (s.hostWrote r v).Inv ↔ s.Inv := by
  unfold State.hostWrote
  split
  · exact s.inv_host _
  · rfl

/-! The operations that write a field of which it does. -/

theorem State.Inv.raise (h : s.Inv) (c : FaultCode) (v : Nat) : (s.raise c v).Inv := by
  simp_all [State.inv_iff, fit_lt]

/-- Completion keeps the invariant, whatever the command left in the internal registers. -/
theorem State.Inv.finish (h : s.Inv) (scan : ScanRegs) (cnt lrN : Nat) (par : Par) (sched : List Nat) (r0 r1 r2 : Nat) :
    (({ s with scan := scan, cnt := cnt, lrN := lrN, par := par, sched := sched } : State).finish r0 r1 r2).Inv := by
  simp_all [State.inv_iff, fit_lt]

/-- Launch latches the argument registers, whose widths the invariant gives (R31). -/
theorem State.Inv.launchAfter (h : s.Inv) (w : Word) (n : Nat) : (s.launchAfter w n).Inv := by
  simp_all [State.inv_iff, State.launchAfter, State.latchOf]

theorem State.Inv.applyReset (h : s.Inv) : s.applyReset.Inv := by
  simp_all [State.inv_iff, freeLatch, freeWord_lt]

theorem State.Inv.writeBuf (h : s.Inv) (a : Nat) (b : Byte) : ({ s with buf := Memory.write s.buf a b } : State).Inv :=
  ⟨Memory.wf_write a b h.buf, ⟨h.visible.arg0, h.visible.arg1, h.visible.bufLen, h.visible.finfo, h.visible.res0,
    h.visible.res1, h.visible.res2⟩, ⟨h.latch.a0, h.latch.a1, h.latch.len⟩⟩

theorem State.Inv.writeCmd (h : s.Inv) (w : Word) : (s.writeCmd w).Inv := by
  rcases s.writeCmd_cases w with ⟨-, hw⟩ | ⟨-, hw⟩
  · rw [hw, State.inv_draws]
    exact h.launchAfter w _
  · rwa [hw]

theorem State.Inv.writeReg (h : s.Inv) (r v : Nat) : (s.writeReg r v).Inv := by
  rcases s.writeReg_cases r v with ⟨-, hw⟩ | ⟨-, hw⟩ | ⟨-, hw⟩ | ⟨-, hw⟩ | ⟨-, hw⟩ <;> rw [hw]
  · exact h.writeCmd _
  · simp_all [State.inv_iff, fit_lt]
  · simp_all [State.inv_iff, fit_lt]
  · simp_all [State.inv_iff, fit_lt]
  · exact h

theorem State.Inv.readReg (h : s.Inv) (r : Nat) : (s.readReg r).2.Inv := by
  rcases s.readReg_state r with hr | hr <;> simpa [hr] using h

theorem State.Inv.orFree (h : s.Inv) (v : Option Nat) : (s.orFree v).2.Inv := by
  rcases s.orFree_state v with ho | ho <;> simpa [ho] using h

/-! The two agents. -/

/-- The host writes a byte of the buffer exactly where the block is not BUSY (R55). -/
theorem hostWriteBuf_eq_next {a : Nat} {b : Byte} :
    hostWriteBuf a b s = .next t ↔ s.st ≠ .busy ∧ t = ({ s with buf := Memory.write s.buf a b } : State).hostNext := by
  by_cases hb : s.st = .busy
  · simp [hostWriteBuf, hb]
  · simp [hostWriteBuf, hb, eq_comm (a := t)]

theorem State.Inv.hostEvent {op : HostOp} (h : s.Inv) (ht : hostEvent op s = .next t) : t.Inv := by
  cases op with
  | write r v =>
    cases ht
    simpa [hostWrite] using h.writeReg r v
  | writeWhole =>
    cases ht
    simpa [hostWriteWhole] using (h.orFree _).writeReg 2 _
  | writeBuf a b =>
    obtain ⟨-, rfl⟩ := hostWriteBuf_eq_next.mp ht
    simpa using h.writeBuf a b
  | read r =>
    cases ht
    simpa [hostRead] using h.readReg r
  | poll r =>
    cases ht
    simpa [hostRead] using h.readReg r
  | reset =>
    cases ht
    simpa using h.applyReset
  | branch e r mask value target =>
    cases ht
    simp only [hostBranch]
    split <;> simpa using h.orFree _
  | jump target =>
    cases ht
    simpa using h

theorem State.Inv.exec {i : Instr} (h : s.Inv) (ht : exec i s = .next t) : t.Inv := by
  rcases exec_cases ht with ⟨c, v, rfl⟩ | ⟨scan, cnt, lrN, par, sched, r0, r1, r2, rfl⟩
  · exact h.raise c v
  · exact h.finish scan cnt lrN par sched r0 r1 r2

/-- Settles O50: a register takes only a value that fits or a free one of its width, and the latch takes only registers. -/
theorem invKeptByEveryStep : Obligations.InvKeptByEveryStep := fun _ _ =>
  step_preserves (P := State.Inv)
    (fun _ _ h => (State.inv_delay _).mpr h)
    (fun _ _ _ h ht => h.hostEvent ht)
    (fun _ _ _ h ht => h.exec ht)
    (fun _ c v h => h.raise c v)

end Sys2Proof.Machine
end

section
/-! PROOFS. The register file as the host sees it: STATUS (R24), reads (R20, R25, R26), writes (R20, R31), fault entry (R211), and the state
after reset (R38). -/

namespace Sys2Proof.Machine

variable (s : State)

/-! ### STATUS -/

theorem BlockState.status_idle : BlockState.idle.status = 0#32 := rfl
theorem BlockState.status_busy : BlockState.busy.status = 1#32 := rfl

/-- STATUS in FAULT is FCODE and the FAULT bit (R24). -/
theorem BlockState.status_fault_toNat (c : FaultCode) : (BlockState.fault c).status.toNat = c.number.toNat * 2 ^ 8 + 4 := by
  cases c <;> rfl

/-- Settles O8, by the block states and, in FAULT, the fault codes. -/
theorem statusFields : Obligations.StatusFields := by
  refine ⟨fun st => ?_, rfl, rfl, rfl, rfl, rfl, rfl⟩
  cases st with
  | idle => exact ⟨.inl ⟨rfl, rfl⟩, rfl, fun _ => rfl, nofun⟩
  | busy => exact ⟨.inr (.inl ⟨rfl, rfl⟩), rfl, fun _ => rfl, nofun⟩
  | done => exact ⟨.inr (.inr (.inl ⟨rfl, rfl⟩)), rfl, fun _ => rfl, nofun⟩
  | fault c =>
    have hlow : (BlockState.fault c).status &&& 0x7#32 = 4#32 := by cases c <;> rfl
    have hrsv : (BlockState.fault c).status &&& 0xFFFFF0F8#32 = 0#32 := by cases c <;> rfl
    have hcode : ((BlockState.fault c).status >>> 8).toNat = c.number.toNat := by cases c <;> rfl
    refine ⟨.inr (.inr (.inr ⟨hlow, c, rfl⟩)), hrsv, fun h => absurd rfl (h c), ?_⟩
    rintro _ ⟨⟩
    exact hcode

/-! ### Reads -/

theorem BlockState.resDefined_iff (st : BlockState) : st.resDefined = true ↔ st = .idle ∨ st = .done := by
  cases st <;> simp [BlockState.resDefined]

theorem State.finfoRead_of_fault {c : FaultCode} (h : s.st = .fault c) : s.finfoRead = s.finfo := by
  simp [State.finfoRead, h]

theorem State.finfoRead_of_not_fault (h : ∀ c, s.st ≠ .fault c) : s.finfoRead = 0 := by
  cases hs : s.st with
  | fault c => exact absurd hs (h c)
  | idle | busy | done => simp [State.finfoRead, hs]

theorem State.readRes_of_defined (h : s.st = .idle ∨ s.st = .done) (v : Nat) : s.readRes v = (v, s) :=
  if_pos (s.st.resDefined_iff.mpr h)

theorem State.readRes_of_undefined (hi : s.st ≠ .idle) (hd : s.st ≠ .done) (v : Nat) :
    s.readRes v = (freeWord s.p s.draws 0, { s with draws := s.draws + 1 }) :=
  if_neg fun h => (s.st.resDefined_iff.mp h).elim hi hd

theorem State.readReg_of_gt {r : Nat} (h : 8 < r) : s.readReg r = (0, s) := by
  obtain ⟨k, rfl⟩ : ∃ k, r = k + 9 := ⟨r - 9, by omega⟩
  rfl

/-- The three result registers by number (R20). -/
theorem State.readReg_res {r : Nat} (hlo : 6 ≤ r) (hhi : r ≤ 8) : ∃ v, s.readReg r = s.readRes v := by
  obtain rfl | rfl | rfl : r = 6 ∨ r = 7 ∨ r = 8 := by omega
  · exact ⟨s.res0, rfl⟩
  · exact ⟨s.res1, rfl⟩
  · exact ⟨s.res2, rfl⟩

/-- Settles O9, register by register. -/
theorem hostReadsRegisters : Obligations.HostReadsRegisters := by
  intro s
  refine ⟨rfl, rfl, rfl, rfl, rfl, fun c hc => ?_, fun hc => ?_, fun hst => ?_, fun hi hd r hlo hhi => ?_,
    fun r hr => s.readReg_of_gt hr⟩
  · exact congrArg (·, s) (s.finfoRead_of_fault hc)
  · exact congrArg (·, s) (s.finfoRead_of_not_fault hc)
  · exact ⟨s.readRes_of_defined hst _, s.readRes_of_defined hst _, s.readRes_of_defined hst _⟩
  · obtain ⟨v, hv⟩ := s.readReg_res hlo hhi
    rw [hv, s.readRes_of_undefined hi hd]
    exact ⟨freeWord_lt _ _ _, rfl⟩

/-! ### Writes -/

theorem State.writeCmd_of_waiting (h : s.st = .idle ∨ s.st = .done) (w : Word) :
    s.writeCmd w = { s.launchAfter w (Config.latency s.draws) with draws := s.draws + 1 } := by
  rcases s.writeCmd_cases w with ⟨-, hw⟩ | ⟨hb | ⟨c, hc⟩, -⟩
  · exact hw
  · simp [hb] at h
  · simp [hc] at h

theorem State.writeCmd_of_not_waiting (hi : s.st ≠ .idle) (hd : s.st ≠ .done) (w : Word) : s.writeCmd w = s := by
  rcases s.writeCmd_cases w with ⟨h, -⟩ | ⟨-, hw⟩
  · exact (h.elim hi hd).elim
  · exact hw

theorem State.writeReg_of_ge {r : Nat} (h : 4 ≤ r) (v : Nat) : s.writeReg r v = s := by
  obtain ⟨k, rfl⟩ : ∃ k, r = k + 4 := ⟨r - 4, by omega⟩
  rfl

/-- Settles O10: ARG0, ARG1 and BUF_LEN take what `fit` stores. -/
theorem hostWritesRegisters : Obligations.HostWritesRegisters := by
  intro s v
  have hlt : fit s.p s.draws 0 v < 2 ^ s.p.idxW := fit_lt s.p s.draws 0 v
  refine ⟨⟨_, _, _, hlt, hlt, hlt, fun h => ?_, rfl, rfl, rfl⟩, fun r hr => s.writeReg_of_ge hr v,
    fun hi hd => s.writeCmd_of_not_waiting hi hd _⟩
  exact ⟨fit_of_lt _ _ h, fit_of_lt _ _ h, fit_of_lt _ _ h⟩

/-! ### Fault entry -/

/-- Settles O7, from the fields of `State.raise` and `Par.stop`. -/
theorem faultEntry : Obligations.FaultEntry := by
  intro s c info
  have hread : (s.raise c info).finfoRead = fit s.p s.draws 0 info := rfl
  refine ⟨rfl, BlockState.status_fault_toNat c, fun h => hread.trans (fit_of_lt _ _ h), hread ▸ fit_lt _ _ _ _, ?_, ?_, rfl, rfl,
    rfl, rfl, rfl, rfl, rfl⟩
  · simp
  · simp

/-! ### Reset -/

/-- In IDLE with every register at its reset value each register number reads 0 (R38). -/
theorem State.readReg_fst_eq_zero {s : State} (hst : s.st = .idle) (hcmd : s.cmd = 0) (h0 : s.arg0 = 0) (h1 : s.arg1 = 0)
    (hlen : s.bufLen = 0) (hr0 : s.res0 = 0) (hr1 : s.res1 = 0) (hr2 : s.res2 = 0) (r : Nat) : (s.readReg r).1 = 0 := by
  have hres (v : Nat) (hv : v = 0) : (s.readRes v).1 = 0 := by rw [s.readRes_of_defined (.inl hst)]; exact hv
  match r with
  | 0 => simp [State.readReg, hcmd]
  | 1 => exact h0
  | 2 => exact h1
  | 3 => exact hlen
  | 4 => simp [State.readReg, hst, BlockState.status_idle]
  | 5 => exact s.finfoRead_of_not_fault (by simp [hst])
  | 6 => exact hres _ hr0
  | 7 => exact hres _ hr1
  | 8 => exact hres _ hr2
  | k + 9 => rfl

/-- Settles O13: the host has no program after reset, so the step stays there. -/
theorem resetState : Obligations.ResetState := fun _ =>
  ⟨rfl, State.readReg_fst_eq_zero rfl rfl rfl rfl rfl rfl rfl rfl, rfl, fun _ => rfl, rfl⟩

theorem ScanRegs.zero_fit (p : Params) : ScanRegs.zero.Fit p :=
  have hpos : 0 < 2 ^ p.idxW := Nat.two_pow_pos _
  ⟨hpos, Nat.zero_le 7, hpos, hpos, hpos, hpos, hpos, hpos⟩

theorem State.resetOf_inv (p : Params) : (State.resetOf p).Inv :=
  have hpos : 0 < 2 ^ p.idxW := Nat.two_pow_pos _
  ⟨Memory.wf_reset p, ⟨hpos, hpos, hpos, hpos, hpos, hpos, hpos⟩, ⟨hpos, hpos, hpos⟩⟩

/-- The segment table and the slots are empty after reset, and every worker has zeros and no segment (assumption 7). -/
theorem State.resetOf_internalsFit (p : Params) : (State.resetOf p).InternalsFit := by
  have hpos : 0 < 2 ^ p.idxW := Nat.two_pow_pos _
  have hworker (x : Worker) (hx : x ∈ (State.resetOf p).par.workers) : x = ⟨ScanRegs.zero, none⟩ := List.eq_of_mem_replicate hx
  refine ⟨ScanRegs.zero_fit p, hpos, hpos, hpos, nofun, nofun, hpos, fun x hx => ?_, fun x hx i hi => ?_, List.length_replicate⟩
  · rw [hworker x hx]
    exact ScanRegs.zero_fit p
  · rw [hworker x hx] at hi
    cases hi

/-- Settles O49: no command runs after reset, and every value there is 0. -/
theorem invariantsAtReset : Obligations.InvariantsAtReset := fun p =>
  ⟨State.resetOf_inv p, State.resetOf_internalsFit p, nofun⟩

end Sys2Proof.Machine
end

section
/-! PROOFS. The turns of the host and of the block, launch (R31), reset as a host event (R240), and the block state (R29, R30): what a step
can do to the running command. -/

namespace Sys2Proof.Machine

variable {s t : State}

/-! ### The host's turn -/

theorem State.hostFirst_iff : s.hostFirst = true ↔ s.delay ≠ 0 ∧ ∃ op, s.hostOp? = some op := by
  simp [State.hostFirst, Option.isSome_iff_exists]

/-- One of the two agents moves next. -/
theorem blockTurn_or_hostTurn (s : State) : s.blockTurn ∨ s.hostTurn := by
  by_cases hb : s.st = .busy
  · cases hf : s.hostFirst with
    | false => exact .inl ⟨hb, hf⟩
    | true => exact .inr (.inr hf)
  · exact .inr (.inl hb)

/-- In the host's turn a step is the host's move, which in BUSY also spends latency. -/
theorem step_of_hostTurn (h : s.hostTurn) : ∃ d, step s = hostMove { s with delay := d } := by
  by_cases hb : s.st = .busy
  · exact ⟨_, step_of_hostFirst hb (h.resolve_left (not_not_intro hb))⟩
  · exact ⟨s.delay, step_of_waiting hb⟩

/-- In the host's turn its next event is the step. -/
theorem step_of_hostOp {op : HostOp} (h : s.hostTurn) (hop : s.hostOp? = some op) :
    ∃ d, step s = hostEvent op { s with delay := d } := by
  obtain ⟨d, hd⟩ := step_of_hostTurn h
  rcases hostMove_cases { s with delay := d } with ⟨op', hop', hm⟩ | ⟨hnone, -⟩
  · obtain rfl : op = op' := Option.some.inj (hop.symm.trans hop')
    exact ⟨d, hd.trans hm⟩
  · cases hop.symm.trans hnone

/-- A state is left untouched by what does nothing. -/
theorem Untouched.refl (s : State) : Untouched s s := by constructor <;> rfl

/-- A host event in BUSY is reset, or leaves the command and what it works on as they were (R31, R55). -/
theorem hostEvent_of_busy {op : HostOp} (hb : s.st = .busy) (h : hostEvent op s = .next t) :
    (op = .reset ∧ t.st = .idle) ∨ (Untouched s t ∧ t.buf = s.buf) := by
  rcases hostEvent_cases h with ⟨hop, rfl⟩ | ⟨v, -, hst, -⟩ | hkept | ⟨a, b, -, hnb, -⟩
  · exact .inl ⟨hop, rfl⟩
  · simp [hb] at hst
  · exact .inr hkept
  · exact absurd hb hnb

/-- The block state after a host event (R29): as before, BUSY by a CMD write in IDLE or DONE, or IDLE by reset. -/
theorem hostEvent_st {op : HostOp} (h : hostEvent op s = .next t) :
    t.st = s.st ∨ ((s.st = .idle ∨ s.st = .done) ∧ (∃ v, op = .write 0 v) ∧ t.st = .busy) ∨ (op = .reset ∧ t.st = .idle) := by
  rcases hostEvent_cases h with ⟨hop, rfl⟩ | ⟨v, hop, hst, rfl⟩ | ⟨hkept, -⟩ | ⟨a, b, -, -, rfl⟩
  · exact .inr (.inr ⟨hop, rfl⟩)
  · exact .inr (.inl ⟨hst, ⟨v, hop⟩, rfl⟩)
  · exact .inl hkept.st
  · exact .inl rfl

/-! ### The block's turn -/

theorem State.ended.ne_busy (h : t.ended) : t.st ≠ .busy := by
  rcases h with h | ⟨c, h⟩ <;> simp [h]

/-- Every command that answers a next state has ended (R30). -/
theorem exec_ended {i : Instr} (h : exec i s = .next t) : t.ended := by
  rcases exec_cases h with ⟨c, v, rfl⟩ | ⟨scan, cnt, lrN, par, sched, r0, r1, r2, rfl⟩
  · exact .inr ⟨c, rfl⟩
  · exact .inl rfl

theorem blockMove_ended (h : blockMove s = .next t) : t.ended := by
  rcases blockMove_cases s with ⟨i, -, hi⟩ | ⟨r, -, hr⟩
  · exact exec_ended (hi ▸ h)
  · obtain rfl : s.raise .badOpcode s.cmd.toNat = t := by simpa [hr] using h
    exact .inr ⟨_, rfl⟩

/-- All that a step in BUSY can do: end the command, abandon it by reset, or spend latency and leave it as it was. -/
theorem step_of_busy (hb : s.st = .busy) (h : step s = .next t) :
    t.ended ∨ t.st = .idle ∨ (s.delay ≠ 0 ∧ Untouched { s with delay := s.delay - 1 } t ∧ t.buf = s.buf) := by
  cases hf : s.hostFirst with
  | false => exact .inl (blockMove_ended (step_of_blockTurn ⟨hb, hf⟩ ▸ h))
  | true =>
    obtain ⟨hdelay, -⟩ := State.hostFirst_iff.mp hf
    rw [step_of_hostFirst hb hf] at h
    rcases hostMove_cases { s with delay := s.delay - 1 } with ⟨op, -, hop⟩ | ⟨-, hnone⟩
    · rcases hostEvent_of_busy (s := { s with delay := s.delay - 1 }) hb (hop ▸ h) with ⟨-, hi⟩ | hkept
      · exact .inr (.inl hi)
      · exact .inr (.inr ⟨hdelay, hkept⟩)
    · obtain rfl : { s with delay := s.delay - 1 } = t := by simpa [hnone] using h
      exact .inr (.inr ⟨hdelay, Untouched.refl _, rfl⟩)

/-- Settles O16: a step that does not end the command spends latency. -/
theorem busyEnds : Obligations.BusyEnds := by
  intro s t hb h
  rcases step_of_busy hb h with he | hi | ⟨hdelay, hkept, -⟩
  · exact .inl he
  · exact .inr (.inl hi)
  · have hlt : s.delay - 1 < s.delay := by omega
    exact .inr (.inr ⟨hkept.st.trans hb, hkept.delay.trans_lt hlt⟩)

/-- Settles O17: a step that stays in BUSY leaves all but latency and the operand registers untouched. -/
theorem busyKeepsCommandAndBuffer : Obligations.BusyKeepsCommandAndBuffer := by
  intro s t hb h ht
  rcases step_of_busy hb h with he | hi | ⟨-, hkept, hbuf⟩
  · exact absurd ht he.ne_busy
  · simp [hi] at ht
  · exact ⟨hkept.latch, hkept.cmd, hbuf, hkept.scan, hkept.cnt, hkept.lrN, hkept.par, hkept.res0, hkept.res1, hkept.res2⟩

/-! ### The latch and the CMD register -/

theorem hostEvent_latchOfCmd {op : HostOp} (hs : s.LatchOfCmd) (h : hostEvent op s = .next t) : t.LatchOfCmd := by
  rcases hostEvent_cases h with ⟨-, rfl⟩ | ⟨v, -, -, rfl⟩ | ⟨hkept, -⟩ | ⟨a, b, -, -, rfl⟩
  · exact nofun
  · exact fun _ => ⟨rfl, rfl, rfl⟩
  · intro hb
    rw [hkept.latch, hkept.cmd]
    exact hs (hkept.st ▸ hb)
  · exact hs

/-- Settles O52: only a launch enters BUSY, and it fills the latch from the word it writes to CMD. -/
theorem latchOfCmdKeptByEveryStep : Obligations.LatchOfCmdKeptByEveryStep := fun _ _ =>
  step_preserves (P := State.LatchOfCmd)
    (fun _ _ hs => hs)
    (fun _ _ _ hs h => hostEvent_latchOfCmd hs h)
    (fun _ _ _ _ h hb => absurd hb (exec_ended h).ne_busy)
    (fun _ _ _ _ => nofun)

/-! ### The fields of a CMD word (R21) -/

theorem cmdOp_toNat (w : Word) : (cmdOp w).toNat = w.toNat % 16 := by
  simp [cmdOp]

theorem cmdTarget_toNat (w : Word) : (cmdTarget w).toNat = w.toNat / 256 % 256 := by
  simp [cmdTarget, Nat.shiftRight_eq_div_pow]

theorem cmdReserved_iff (w : Word) :
    cmdReserved w = true ↔ w.toNat / 16 % 16 ≠ 0 ∨ w.toNat / 2 ^ 16 % 2 ^ 16 ≠ 0 := by
  simp [cmdReserved, ← BitVec.toNat_inj, Nat.shiftRight_eq_div_pow]

/-! ### Launch -/

/-- A CMD write of the host in IDLE or DONE (R31). -/
theorem hostWrite_cmd_of_waiting (h : s.st = .idle ∨ s.st = .done) (v : Nat) :
    hostWrite 0 v s =
      ({ s.launchAfter (fitWord s.draws v) (Config.latency s.draws) with draws := s.draws + 1 } : State).hostNext := by
  have hw : s.writeReg 0 v = _ := s.writeCmd_of_waiting h (fitWord s.draws v)
  simp [hostWrite, hw, State.hostWrote]

theorem State.ne_busy_of_waiting (h : s.st = .idle ∨ s.st = .done) : s.st ≠ .busy := by
  rcases h with h | h <;> simp [h]

/-- Settles O11: in IDLE and DONE the step is the host's CMD write, and a word of 32 bits is kept. -/
theorem cmdWriteLaunches : Obligations.CmdWriteLaunches := by
  intro s v hv hnext hwait
  have hstep : step s = .next (hostWrite 0 v s) := by
    rw [step_of_waiting (State.ne_busy_of_waiting hwait), hostMove, hnext]
    rfl
  rw [hostWrite_cmd_of_waiting hwait, fitWord_of_lt _ hv] at hstep
  have hval : (BitVec.ofNat 32 v).toNat = v := by simpa using hv
  refine ⟨_, hstep, rfl, ?_, ?_, ?_, rfl, rfl, rfl, rfl, BlockState.status_busy, rfl, rfl, rfl, rfl, rfl, rfl, rfl, rfl,
    rfl, rfl, rfl, rfl, rfl⟩
  · exact (cmdOp_toNat _).trans (by rw [hval])
  · exact (cmdReserved_iff _).trans (by rw [hval])
  · exact (cmdTarget_toNat _).trans (by rw [hval])

/-- (t << 8) | OP as a sum (R78). -/
theorem cmdValue_eq {t op : Nat} (hop : op < 16) : cmdValue t op = t * 256 + op := by
  rw [cmdValue, ← Nat.shiftLeft_add_eq_or_of_lt (by omega : op < 2 ^ 8), Nat.shiftLeft_eq]

/-- Settles O54: the first two writes put the operands into ARG0 and ARG1 and leave the block waiting, and the third launches. -/
theorem commandStatementLaunches : Obligations.CommandStatementLaunches := by
  intro s t op a0 a1 hwait ht hop ha0 ha1
  have hvalue : cmdValue t op = t * 256 + op := cmdValue_eq hop
  have hword (d : Nat) : (fitWord d (cmdValue t op)).toNat = t * 256 + op := by
    rw [fitWord_of_lt _ (by omega), hvalue, BitVec.toNat_ofNat]
    omega
  have hthird : hostWrite 0 (cmdValue t op) (hostWrite 2 a1 (hostWrite 1 a0 s)) = _ :=
    hostWrite_cmd_of_waiting (s := hostWrite 2 a1 (hostWrite 1 a0 s)) hwait _
  refine ⟨_, congrArg Host.Outcome.next hthird, rfl, ?_, ?_, ?_, fit_of_lt _ _ ha0, fit_of_lt _ _ ha1, rfl, rfl⟩
  · refine (cmdOp_toNat _).trans ?_
    rw [hword]
    omega
  · refine (cmdTarget_toNat _).trans ?_
    rw [hword]
    omega
  · refine Bool.eq_false_iff.mpr fun hrsv => ?_
    have hbits := (cmdReserved_iff _).mp hrsv
    rw [hword] at hbits
    omega

/-! ### Reset -/

/-- Settles O12: whatever the latency, the host's reset is the step. -/
theorem resetEvent : Obligations.ResetEvent := by
  intro s hop hturn
  obtain ⟨d, hd⟩ := step_of_hostOp hturn hop
  exact ⟨_, hd, rfl, BlockState.status_idle, State.readReg_fst_eq_zero rfl rfl rfl rfl rfl rfl rfl rfl, rfl, rfl⟩

end Sys2Proof.Machine
end

section
/-! PROOFS. The launch checks against the decoder (R71, R213, R214), the transitions of the block state (R29), and the frames of the
commands (R50, R61, R210, R211). -/

namespace Sys2Proof.Machine

variable {s t : State}

/-! ### The decoder on the latched fields -/

theorem decodeFields_eq_ok {rsv : Bool} {op : BitVec 4} {x : Byte} {i : Instr} :
    decodeFields rsv op x = .ok i ↔ rsv = false ∧ op = i.opcode ∧ x = i.target := by
  constructor
  · intro h
    unfold decodeFields at h
    split_ifs at h <;> cases h <;> simp_all [Instr.opcode, Instr.target]
  · rintro ⟨rfl, rfl, rfl⟩
    cases i <;> rfl

/-- The reserved words of R73, by the latched fields. -/
theorem decodeFields_eq_error {rsv : Bool} {op : BitVec 4} {x : Byte} {r : Reject} (h : decodeFields rsv op x = .error r) :
    rsv = true ∨ op.toNat < 1 ∨ 6 < op.toNat := by
  unfold decodeFields at h
  split_ifs at h with hrsv h1 h2 h3 h4 h5 h6
  · exact .inl hrsv
  · right
    bv_omega

/-! ### The launch checks -/

/-- The checks of R214 that a decoded command runs, in their order (R213). -/
def checksOf (s : State) : Instr → List (Option Violation)
  | .addr _ => [checkBuflen s, checkPos s]
  | .getbit _ => [checkBuflen s, checkPos s]
  | .count x => [checkBuflen s, checkTarget x]
  | .leadrun x => [checkBuflen s, checkTarget x, checkStart s]
  | .maxrun x => [checkBuflen s, checkTarget x, checkStart s]
  | .maxrunPar x => [checkBuflen s, checkTarget x, checkSegcount s, checkNonempty s]

/-- Every command runs its checks, and where it goes on and answers a next state, it is DONE. -/
theorem exec_eq_checked (i : Instr) (s : State) :
    ∃ go, exec i s = checked s (checksOf s i) go ∧ ∀ t, go = .next t → t.st = .done := by
  cases i <;> refine ⟨_, rfl, fun t h => ?_⟩
  case addr | getbit | count | maxrun | maxrunPar =>
    obtain ⟨a, -, ⟨⟩⟩ := andThen_eq_next.mp h
    rfl
  case leadrun =>
    obtain ⟨c, -, hc⟩ := andThen_eq_next.mp h
    obtain ⟨e, -, ⟨⟩⟩ := andThen_eq_next.mp hc
    rfl

/-- A check that fails on a condition is reported where the condition holds, and the checks after it where it does not. -/
@[simp] theorem firstViolation_ite (c : Prop) [Decidable c] (v : Violation) (cs : List (Option Violation)) :
    firstViolation ((if c then some v else none) :: cs) = if c then some v else firstViolation cs := by
  split <;> rfl

@[simp] theorem firstViolation_nil : firstViolation [] = none := rfl

/-! The checks on the latch (R32, R75). -/

theorem checkBuflen_latch (s : State) :
    checkBuflen s = if 2 ^ s.p.idxW ≤ 8 * s.latch.len then some (.badBuflen, s.latch.len) else none := rfl
theorem checkSegcount_latch (s : State) : checkSegcount s = if s.latch.a0 = 0 then some (.badSegcount, 0) else none := rfl
theorem checkPos_latch (s : State) :
    checkPos s = if 8 * s.latch.len ≤ s.latch.a0 then some (.badPos, s.latch.a0) else none := rfl
theorem checkStart_latch (s : State) :
    checkStart s = if 8 * s.latch.len ≤ s.latch.a0 then some (.badStart, s.latch.a0) else none := rfl
theorem checkNonempty_latch (s : State) : checkNonempty s = if 8 * s.latch.len = 0 then some (.badStart, 0) else none := rfl

theorem launchChecks_of_rejected {r : Reject} (h : s.latched = .error r) : s.launchChecks = some (.badOpcode, s.cmd.toNat) :=
  if_pos (decodeFields_eq_error h)

/-- The list of R214 on the latch is, for each command, the list of its own checks. -/
theorem launchChecks_of_latched {i : Instr} (h : s.latched = .ok i) : s.launchChecks = firstViolation (checksOf s i) := by
  obtain ⟨hrsv, hop, htgt⟩ := decodeFields_eq_ok.mp h
  cases i <;>
    simp [State.launchChecks, hrsv, hop, htgt, Instr.opcode, Instr.target, checksOf, checkBuflen_latch, checkTarget,
      checkSegcount_latch, checkPos_latch, checkStart_latch, checkNonempty_latch]

/-- A failing launch check is the fault that the block's move reports (R214). -/
theorem blockMove_of_violation {v : Violation} (h : s.launchChecks = some v) : blockMove s = .next (s.raise v.1 v.2) := by
  rcases blockMove_cases s with ⟨i, hi, hm⟩ | ⟨r, hr, hm⟩
  · obtain ⟨go, hgo, -⟩ := exec_eq_checked i s
    rw [launchChecks_of_latched hi] at h
    rw [hm, hgo, checked, h]
  · obtain rfl : (.badOpcode, s.cmd.toNat) = v := Option.some.inj ((launchChecks_of_rejected hr).symm.trans h)
    exact hm

/-- With no failing launch check the block's move ends in DONE where it ends (R214). -/
theorem blockMove_of_no_violation (h : s.launchChecks = none) (ht : blockMove s = .next t) : t.st = .done := by
  rcases blockMove_cases s with ⟨i, hi, hm⟩ | ⟨r, hr, -⟩
  · obtain ⟨go, hgo, hdone⟩ := exec_eq_checked i s
    rw [launchChecks_of_latched hi] at h
    refine hdone t ?_
    rw [← ht, hm, hgo, checked, h]
  · simp [launchChecks_of_rejected hr] at h

/-! ### The transitions of the block state -/

/-- The block state after a step in the host's turn (R29). -/
theorem step_st_of_hostTurn (hturn : s.hostTurn) (h : step s = .next t) :
    t.st = s.st ∨ ((s.st = .idle ∨ s.st = .done) ∧ (∃ v, s.cmdWriteNext v) ∧ t.st = .busy) ∨
      (s.hostOp? = some .reset ∧ t.st = .idle) := by
  obtain ⟨d, hd⟩ := step_of_hostTurn hturn
  rw [hd] at h
  rcases hostMove_cases { s with delay := d } with ⟨op, hop, hm⟩ | ⟨-, hnone⟩
  · have hop : s.hostOp? = some op := hop
    rcases hostEvent_st (hm ▸ h) with hst | ⟨hwait, ⟨v, rfl⟩, hst⟩ | ⟨rfl, hst⟩
    · exact .inl hst
    · exact .inr (.inl ⟨hwait, ⟨v, hop⟩, hst⟩)
    · exact .inr (.inr ⟨hop, hst⟩)
  · obtain rfl : { s with delay := d } = t := by simpa [hnone] using h
    exact .inl rfl

/-- The block state after a CMD write of the host (R31, R220). -/
theorem hostWrite_cmd_st (s : State) (v : Nat) : (hostWrite 0 v s).st = (s.writeCmd (fitWord s.draws v)).st := rfl

/-- Settles O15: the host's turn and the block's turn, the latter by the launch checks. -/
theorem blockStateTransitions : Obligations.BlockStateTransitions := by
  refine ⟨fun s t h => ?_, fun s v hnext hturn => ?_, fun s t hturn h => ?_, fun s hturn hop => ?_⟩
  · rcases blockTurn_or_hostTurn s with hb | hh
    · exact .inr (.inr (.inl ⟨hb, blockMove_ended (step_of_blockTurn hb ▸ h)⟩))
    · rcases step_st_of_hostTurn hh h with hst | hlaunch | hreset
      · exact .inl hst
      · exact .inr (.inl hlaunch)
      · exact .inr (.inr (.inr hreset))
  · obtain ⟨d, hd⟩ := step_of_hostOp hturn hnext
    refine ⟨_, hd, fun hwait => ?_, fun c hc => ?_⟩
    · rw [hostWrite_cmd_of_waiting (s := { s with delay := d }) hwait]
      rfl
    · rw [hostWrite_cmd_st, State.writeCmd_of_not_waiting] <;> simp [hc]
  · rw [step_of_blockTurn hturn] at h
    refine ⟨fun hnone => blockMove_of_no_violation hnone h, fun v hv => ?_⟩
    obtain rfl : s.raise v.1 v.2 = t := by simpa [blockMove_of_violation hv] using h
    rfl
  · obtain ⟨d, hd⟩ := step_of_hostOp hturn hop
    exact ⟨_, hd, rfl⟩

/-! ### The frames of the commands -/

/-- Settles O20: fault entry and completion write none of these fields. -/
theorem commandFrame : Obligations.CommandFrame := by
  intro i s t h
  have hended := exec_ended h
  rcases exec_cases h with ⟨c, v, rfl⟩ | ⟨scan, cnt, lrN, par, sched, r0, r1, r2, rfl⟩
  · exact ⟨rfl, rfl, rfl, rfl, rfl, rfl, rfl, rfl, fun _ => rfl, hended⟩
  · exact ⟨rfl, rfl, rfl, rfl, rfl, rfl, rfl, rfl, fun _ => rfl, hended⟩

/-- Settles O22: a command that completes is not in FAULT, and `State.raise` writes only FINFO and the segment state. -/
theorem faultingCommandFrame : Obligations.FaultingCommandFrame := by
  intro i s t c h hc
  rcases exec_cases h with ⟨c', v, rfl⟩ | ⟨scan, cnt, lrN, par, sched, r0, r1, r2, rfl⟩
  · exact ⟨rfl, rfl, rfl, rfl, rfl, rfl, rfl, rfl⟩
  · cases hc

/-- A fan-out that lifts the barrier has done so at once, or made an enabled event and lifted it after that. -/
theorem fanOut_eq_next {m : Memory} {n target fuel : Nat} {sched : List Nat} {q : Par} {e : Par × List Nat}
    (h : fanOut m n target fuel sched q = .next e) :
    (q.join = q.nseg ∧ e = (q, sched)) ∨
      ∃ fuel' ev q', fuel = fuel' + 1 ∧ ev ∈ q.events ∧ workerEvent m n target q ev = .next q' ∧
        fanOut m n target fuel' sched.tail q' = .next e := by
  cases fuel with
  | zero =>
    rw [fanOut] at h
    split at h
    · cases h
      exact .inl ⟨‹_›, rfl⟩
    · cases h
  | succ fuel =>
    rcases fanOut_succ m n target fuel sched q with ⟨hj, hf⟩ | ⟨-, -, hf⟩ | ⟨-, ev, hev, hf⟩
    · rw [hf] at h
      cases h
      exact .inl ⟨hj, rfl⟩
    · simp [hf] at h
    · obtain ⟨q', hq', hrest⟩ := andThen_eq_next.mp (hf ▸ h)
      exact .inr ⟨fuel, ev, q', rfl, hev, hq', hrest⟩

/-- A fan-out takes its choices from the front of the schedule (assumption 4). -/
theorem fanOut_sched {m : Memory} {n target fuel : Nat} {sched : List Nat} {q : Par} {e : Par × List Nat}
    (h : fanOut m n target fuel sched q = .next e) : ∃ k, e.2 = sched.drop k := by
  induction fuel generalizing sched q with
  | zero =>
    rcases fanOut_eq_next h with ⟨-, rfl⟩ | ⟨_, _, _, hz, -⟩
    · exact ⟨0, rfl⟩
    · cases hz
  | succ fuel ih =>
    rcases fanOut_eq_next h with ⟨-, rfl⟩ | ⟨_, ev, q', ⟨⟩, -, -, hrest⟩
    · exact ⟨0, rfl⟩
    · obtain ⟨k, hk⟩ := ih hrest
      exact ⟨k + 1, by rw [hk, List.drop_tail]⟩

/-- Settles O21: each command's inversion lemma, past its checks, says which registers it wrote before `State.finish`. -/
theorem completedCommandFrame : Obligations.CompletedCommandFrame := by
  intro x s t hdone
  have hraise {c : FaultCode} {v : Nat} (h : t = s.raise c v) : False := by simp [h] at hdone
  refine ⟨fun h => ?_, fun h => ?_, fun h => ?_, fun h => ?_, fun h => ?_⟩
  · rcases h with h | h
    · rcases execAddr_eq_next.mp h with ⟨v, -, ht⟩ | ⟨-, b, -, rfl⟩
      · exact (hraise ht).elim
      · exact ⟨rfl, rfl, rfl, rfl, rfl, rfl⟩
    · rcases execGetbit_eq_next.mp h with ⟨v, -, ht⟩ | ⟨-, b, -, rfl⟩
      · exact (hraise ht).elim
      · exact ⟨rfl, rfl, rfl, rfl, rfl, rfl⟩
  · rcases execCount_eq_next.mp h with ⟨v, -, ht⟩ | ⟨-, c, -, rfl⟩
    · exact (hraise ht).elim
    · exact ⟨rfl, rfl, rfl, rfl, rfl⟩
  · rcases execLeadrun_eq_next.mp h with ⟨v, -, ht⟩ | ⟨-, c, -, e, -, rfl⟩
    · exact (hraise ht).elim
    · exact ⟨rfl, rfl, rfl, rfl, rfl, rfl⟩
  · rcases execMaxrun_eq_next.mp h with ⟨v, -, ht⟩ | ⟨-, r, -, rfl⟩
    · exact (hraise ht).elim
    · exact ⟨rfl, rfl, rfl, rfl, rfl⟩
  · rcases execMaxrunPar_eq_next.mp h with ⟨v, -, ht⟩ | ⟨-, e, he, rfl⟩
    · exact (hraise ht).elim
    · exact ⟨rfl, rfl, rfl, rfl, fanOut_sched he⟩

end Sys2Proof.Machine
end

section
/-! PROOFS. COUNT (R120): its tally is the number of positions that hold the target (R121). -/

namespace Sys2Proof.Machine

variable {m : Memory} {n target : Nat}

/-- How many of the first `k` positions of the buffer hold the target (R121). -/
def bitCount (m : Memory) (target k : Nat) : Nat := (List.range k).countP fun p => Memory.bitAt m p == some target

theorem bitCount_le (m : Memory) (target k : Nat) : bitCount m target k ≤ k :=
  List.countP_le_length.trans_eq List.length_range

/-- The bits of a byte that is there, by the shift that the block takes (R107, R121). -/
theorem Memory.bitAt_byte {i off : Nat} {b : Byte} (hb : Memory.read m i = some b) (hoff : off < 8) :
    Memory.bitAt m (8 * i + off) = some (bitOfByte b off) := by
  have hdiv : (8 * i + off) / 8 = i := by omega
  have hmod : (8 * i + off) % 8 = off := by omega
  simp [Memory.bitAt, hdiv, hmod, hb, bitOfByte_eq_maskedBit b (by omega : off ≤ 7)]

theorem foldl_tally (p : Nat → Prop) [DecidablePred p] (l : List Nat) (c : Nat) :
    l.foldl (fun c x => if p x then c + 1 else c) c = c + l.countP (fun x => decide (p x)) := by
  induction l generalizing c with
  | nil => rfl
  | cons x l ih =>
    rw [List.foldl_cons, ih, List.countP_cons]
    by_cases hx : p x
    · simp only [hx, if_true, decide_true]
      omega
    · simp [hx]

/-- The inner loop of R120 counts the target bits of its byte. -/
theorem countByte_bitCount {i : Nat} {b : Byte} (hb : Memory.read m i = some b) :
    countByte target b (bitCount m target (8 * i)) = bitCount m target (8 * (i + 1)) := by
  rw [countByte, foldl_tally, bitCount, bitCount, Nat.mul_succ, List.range_add, List.countP_append, List.countP_map]
  congr 1
  refine List.countP_congr fun off hoff => ?_
  simp [Memory.bitAt_byte hb (List.mem_range.mp hoff)]

/-- The outer loop of R120, begun with the tally of the bytes before `i`, ends with that of all bytes up to its last. -/
theorem countFrom_eq_next {fuel i c : Nat} (h : countFrom m n target fuel i (bitCount m target (8 * i)) = .next c) :
    c = bitCount m target (8 * (i + fuel)) := by
  induction fuel generalizing i with
  | zero => exact (Host.Outcome.next.inj h).symm
  | succ fuel ih =>
    obtain ⟨b, hb, hrest⟩ := andThen_eq_next.mp h
    rw [countByte_bitCount (memRead_eq_next.mp hb).2] at hrest
    rw [ih hrest, Nat.succ_add_eq_add_succ]

/-- The outer loop of R120 completes where every byte that it reads has been supplied. -/
theorem countFrom_completes (hsup : ∀ a, a < n → (Memory.read m a).isSome = true) {fuel i : Nat} (hi : i + fuel ≤ n) (c : Nat) :
    ∃ c', countFrom m n target fuel i c = .next c' := by
  induction fuel generalizing i c with
  | zero => exact ⟨c, rfl⟩
  | succ fuel ih =>
    obtain ⟨b, hb⟩ := Option.isSome_iff_exists.mp (hsup i (by omega))
    have hread : memRead m n i = .next b := memRead_eq_next.mpr ⟨by omega, hb⟩
    rw [countFrom, hread]
    exact ih (by omega) _

/-- The tally of COUNT over the whole buffer. -/
theorem countFrom_whole {c : Nat} (h : countFrom m n target n 0 0 = .next c) : c = bitCount m target (8 * n) := by
  rw [countFrom_eq_next (i := 0) h, Nat.zero_add]

/-- Settles O26: the loop completes on supplied bytes, and its tally is at most bitlen, so RES0 holds it. -/
theorem countCompletes : Obligations.CountCompletes := by
  intro x s hfits hx hsup
  have hchecks : firstViolation [checkBuflen s, checkTarget x] = none := by
    simp [firstViolation_eq_none, checkBuflen_eq_none.mpr hfits, checkTarget_eq_none.mpr hx]
  obtain ⟨c, hc⟩ := countFrom_completes (target := x.toNat) hsup (i := 0) (fuel := s.n) (by omega) 0
  have hcount : c = bitCount s.buf x.toNat s.bitlen := countFrom_whole hc
  have hlt : c < 2 ^ s.p.idxW := (hcount ▸ bitCount_le _ _ _).trans_lt hfits
  have hzero : 0 < 2 ^ s.p.idxW := Nat.two_pow_pos _
  refine ⟨_, execCount_eq_next.mpr (.inr ⟨hchecks, c, hc, rfl⟩), rfl, ?_, fit_of_lt _ _ hzero, fit_of_lt _ _ hzero,
    (fit_of_lt _ _ hlt).symm⟩
  rw [State.finish_res0, fit_of_lt _ _ hlt, hcount, bitCount, List.countP_eq_length_filter]

end Sys2Proof.Machine
end

section
/-! PROOFS. The scanners: the cursor invariant is kept (R105), and what the loops of LEADRUN (R130) and MAXRUN_CORE (R151) hold after `k`
iterations, so that no value they compute wraps (R215). -/

namespace Sys2Proof.Machine

variable {m : Memory} {n target : Nat}

/-! ### Sequencing -/

theorem andThen_assoc {α β γ : Type} (o : Host.Outcome α Fault Refusal) (f : α → Host.Outcome β Fault Refusal)
    (g : β → Host.Outcome γ Fault Refusal) : andThen (andThen o f) g = andThen o fun a => andThen (f a) g := by
  cases o <;> rfl

theorem andThen_next_right {α : Type} (o : Host.Outcome α Fault Refusal) : andThen o .next = o := by
  cases o <;> rfl

/-! ### The cursor -/

/-- CURSOR_INIT establishes the cursor invariant (R104, R105). -/
theorem cursorInit_inv {s : Nat} {c : Cursor} (h : cursorInit m n s = .next c) : c.Inv m n ∧ c.pos = s := by
  obtain ⟨hs, b, hb, rfl⟩ := cursorInit_eq_next.mp h
  refine ⟨⟨?_, ?_, hs, ?_, hb⟩, rfl⟩ <;> dsimp only <;> omega

/-- CURSOR_ADVANCE keeps the cursor invariant (R105, R106). -/
theorem cursorAdvance_inv {c d : Cursor} (hc : c.Inv m n) (h : cursorAdvance m n c = .next d) : d.Inv m n := by
  obtain ⟨hpos, hlt, hidx, hoff, hbyte⟩ := hc
  rcases cursorAdvance_cases m n c with ⟨h7, ha⟩ | ⟨h7, i, hi, ha⟩
  · have hraw : normalize (8 * n) (c.pos + 1) = c.pos + 1 := if_neg (by omega)
    obtain rfl := Host.Outcome.next.inj (ha.symm.trans h)
    rw [hraw]
    refine ⟨?_, ?_, hidx, ?_, hbyte⟩ <;> dsimp only <;> omega
  · obtain ⟨b, hb, hd⟩ := andThen_eq_next.mp (ha.symm.trans h)
    obtain rfl := Host.Outcome.next.inj hd
    obtain ⟨hin, hread⟩ := memRead_eq_next.mp hb
    have hnext : normalize (8 * n) (c.pos + 1) = 8 * i := by
      unfold normalize
      split_ifs at hi ⊢ <;> omega
    rw [hnext]
    refine ⟨?_, ?_, hin, ?_, hread⟩ <;> dsimp only <;> omega

/-! ### LEADRUN -/

/-- The loop of R130 keeps the cursor invariant and examines no more bits than its window has left. -/
theorem leadLoop_bounds {fuel k l : Nat} {c : Cursor} {e : Cursor × Nat × Nat} (hc : c.Inv m n)
    (h : leadLoop m n target fuel c k l = .next e) : e.1.Inv m n ∧ e.2.1 ≤ k + fuel ∧ e.2.2 ≤ l + fuel := by
  induction fuel generalizing c k l with
  | zero =>
    obtain rfl := Host.Outcome.next.inj h
    exact ⟨hc, le_rfl, le_rfl⟩
  | succ fuel ih =>
    rw [leadLoop] at h
    split at h
    · obtain rfl := Host.Outcome.next.inj h
      exact ⟨hc, Nat.le_add_right _ _, Nat.le_add_right _ _⟩
    · obtain ⟨c', hc', hrest⟩ := andThen_eq_next.mp h
      obtain ⟨hinv, hk, hl⟩ := ih (cursorAdvance_inv hc hc') hrest
      exact ⟨hinv, by omega, by omega⟩

/-! ### MAXRUN_CORE, iteration by iteration -/

/-- The scan registers of MAXRUN_CORE from `s` after `k` iterations of its loop (R151). -/
def coreAfter (m : Memory) (n target s k : Nat) : Host.Outcome ScanRegs Fault Refusal :=
  andThen (coreInit m n s) (coreLoop m n target k)

@[simp] theorem coreAfter_zero (s : Nat) : coreAfter m n target s 0 = coreInit m n s :=
  andThen_next_right _

theorem coreLoop_succ (k : Nat) (r : ScanRegs) :
    coreLoop m n target (k + 1) r = andThen (coreLoop m n target k r) (coreStep m n target) := by
  induction k generalizing r with
  | zero => exact andThen_next_right _
  | succ k ih =>
    calc coreLoop m n target (k + 2) r
        = andThen (coreStep m n target r) (coreLoop m n target (k + 1)) := rfl
      _ = andThen (coreStep m n target r) fun r' => andThen (coreLoop m n target k r') (coreStep m n target) :=
          congrArg _ (funext ih)
      _ = andThen (coreLoop m n target (k + 1) r) (coreStep m n target) := (andThen_assoc _ _ _).symm

theorem coreAfter_succ (s k : Nat) :
    coreAfter m n target s (k + 1) = andThen (coreAfter m n target s k) (coreStep m n target) := by
  rw [coreAfter, coreAfter, andThen_assoc]
  exact congrArg _ (funext (coreLoop_succ k))

theorem maxrunCore_eq_next {s w : Nat} {r : ScanRegs} :
    maxrunCore m n target s w = .next r ↔ ∃ r', coreAfter m n target s w = .next r' ∧ r = coreFinish r' := by
  rw [maxrunCore, ← andThen_assoc, andThen_eq_next]
  simp only [Host.Outcome.next.injEq, eq_comm (a := r)]
  rfl

/-- A scan that reaches its end has reached every iteration before it. -/
theorem coreAfter_of_le {s k w : Nat} {r : ScanRegs} (hkw : k ≤ w) (h : coreAfter m n target s w = .next r) :
    ∃ r', coreAfter m n target s k = .next r' := by
  induction hkw generalizing r with
  | refl => exact ⟨r, h⟩
  | step _ ih =>
    obtain ⟨r', hr', -⟩ := andThen_eq_next.mp (coreAfter_succ s _ ▸ h)
    exact ih hr'

/-- What the scan registers hold after `k` iterations of R151: the cursor meets its invariant, no run is longer than `k`, and every start
lies in the buffer. -/
structure ScanRegs.Scanned (m : Memory) (n k : Nat) (r : ScanRegs) : Prop where
  cursor : r.cursor.Inv m n
  k_eq : r.k = k
  curLen : r.cur.len ≤ k
  curStart : r.cur.start < 8 * n
  bestLen : r.best.len ≤ k
  bestStart : r.best.start < 8 * n

theorem keepFirstMax_eq_or (a b : Run) : keepFirstMax a b = a ∨ keepFirstMax a b = b := by
  unfold keepFirstMax
  split
  · exact .inr rfl
  · exact .inl rfl

theorem keepFirstMax_bounds {a b : Run} {k l : Nat} (ha : a.len ≤ k ∧ a.start < l) (hb : b.len ≤ k ∧ b.start < l) :
    (keepFirstMax a b).len ≤ k ∧ (keepFirstMax a b).start < l := by
  rcases keepFirstMax_eq_or a b with h | h <;> rwa [h]

theorem coreInit_scanned {s : Nat} {r : ScanRegs} (h : coreInit m n s = .next r) : r.Scanned m n 0 := by
  obtain ⟨c, hc, hr⟩ := andThen_eq_next.mp h
  obtain rfl := Host.Outcome.next.inj hr
  obtain ⟨hinv, rfl⟩ := cursorInit_inv hc
  exact ⟨hinv, rfl, le_rfl, hinv.pos_lt, le_rfl, hinv.pos_lt⟩

/-- One iteration of R151: the current run grows by one, or closes and opens again at the next position. -/
theorem coreStep_scanned {k : Nat} {r r' : ScanRegs} (hr : r.Scanned m n k) (h : coreStep m n target r = .next r') :
    r'.Scanned m n (k + 1) := by
  obtain ⟨hcur, hk, hlen, hstart, hblen, hbstart⟩ := hr
  obtain ⟨c, hc, hr'⟩ := andThen_eq_next.mp h
  obtain rfl := Host.Outcome.next.inj hr'
  have hinv := cursorAdvance_inv hcur hc
  have hk' : r.k + 1 = k + 1 := by rw [hk]
  unfold coreCompare
  split
  · exact ⟨hinv, hk', Nat.succ_le_succ hlen, hstart, hblen.trans (Nat.le_succ k), hbstart⟩
  · have hopen : normalize (8 * n) (r.cursor.pos + 1) < 8 * n := by
      have := hcur.pos_lt
      unfold normalize
      split <;> omega
    obtain ⟨hl, hs⟩ := keepFirstMax_bounds ⟨hblen, hbstart⟩ ⟨hlen, hstart⟩
    exact ⟨hinv, hk', Nat.zero_le _, hopen, hl.trans (Nat.le_succ k), hs⟩

theorem coreAfter_scanned {s k : Nat} {r : ScanRegs} (h : coreAfter m n target s k = .next r) : r.Scanned m n k := by
  induction k generalizing r with
  | zero => exact coreInit_scanned (coreAfter_zero s ▸ h)
  | succ k ih =>
    obtain ⟨r', hr', hstep⟩ := andThen_eq_next.mp (coreAfter_succ s k ▸ h)
    exact coreStep_scanned (ih hr') hstep

theorem ScanRegs.Scanned.finish {k : Nat} {r : ScanRegs} (h : r.Scanned m n k) : (coreFinish r).Scanned m n k := by
  obtain ⟨hl, hs⟩ := keepFirstMax_bounds ⟨h.bestLen, h.bestStart⟩ ⟨h.curLen, h.curStart⟩
  exact ⟨h.cursor, h.k_eq, h.curLen, h.curStart, hl, hs⟩

theorem maxrunCore_scanned {s w : Nat} {r : ScanRegs} (h : maxrunCore m n target s w = .next r) : r.Scanned m n w := by
  obtain ⟨r', hr', rfl⟩ := maxrunCore_eq_next.mp h
  exact (coreAfter_scanned hr').finish

/-- Within the width bound of R215 the scan registers have their widths (R33, R34). -/
theorem ScanRegs.Scanned.fit {p : Params} {k : Nat} {r : ScanRegs} (h : r.Scanned m n k) (hn : 8 * n < 2 ^ p.idxW)
    (hk : k < 2 ^ p.idxW) : r.Fit p := by
  obtain ⟨⟨-, hpos, hidx, hoff, -⟩, rfl, hlen, hstart, hblen, hbstart⟩ := h
  exact ⟨by omega, hoff, by omega, hk, by omega, by omega, by omega, by omega⟩

end Sys2Proof.Machine
end

section
/-! PROOFS. The fan-out of MAXRUN_PAR (R187, R188, R190): what the segment state holds whatever the schedule has picked, and that the
barrier lifts, with the Run of each segment in its slot (R196). -/

namespace Sys2Proof.Machine

variable {p : Params} {m : Memory} {n target count : Nat} {q q' : Par}

/-! ### The partition -/

theorem partition_getD {i : Nat} (hi : i < count) (d : Segment) : (partition n count).getD i d = segmentOf n count i := by
  simp [partition, hi]

theorem mul_div_le_of_le {i : Nat} (hi : i ≤ count) : i * (n / count) ≤ n :=
  (Nat.mul_le_mul_right _ hi).trans (Nat.mul_div_le n count)

/-- Every segment lies within the buffer (R185). -/
theorem segmentOf_end_le {i : Nat} (hi : i < count) :
    (segmentOf n count i).start + (segmentOf n count i).length ≤ 8 * n := by
  unfold segmentOf
  split
  · have hend : (i + 1) * (n / count) ≤ n := mul_div_le_of_le hi
    rw [Nat.succ_mul] at hend
    dsimp only
    omega
  · have hstart : (count - 1) * (n / count) ≤ n := mul_div_le_of_le (Nat.sub_le _ _)
    dsimp only
    omega

/-- The segments have as many bits as the buffer (R183). -/
theorem sum_segment_lengths (hcount : count ≠ 0) : ∑ i ∈ Finset.range count, (segmentOf n count i).length = 8 * n := by
  obtain ⟨k, rfl⟩ : ∃ k, count = k + 1 := ⟨count - 1, by omega⟩
  have hlast : (segmentOf n (k + 1) k).length = 8 * (n - k * (n / (k + 1))) := by simp [segmentOf]
  have hinner : ∀ i ∈ Finset.range k, (segmentOf n (k + 1) i).length = 8 * (n / (k + 1)) := fun i hi => by
    simp [segmentOf, Finset.mem_range.mp hi]
  have hle : k * (n / (k + 1)) ≤ n := mul_div_le_of_le (Nat.le_succ k)
  rw [Finset.sum_range_succ, Finset.sum_congr rfl hinner, hlast, Finset.sum_const, Finset.card_range, smul_eq_mul,
    Nat.mul_left_comm]
  omega

/-! ### Who scans a segment, and which slots hold a Run -/

/-- Worker `w` scans segment `i` and its scan registers are `r` (R36). -/
def Par.Scans (q : Par) (w i : Nat) (r : ScanRegs) : Prop := q.workers[w]? = some ⟨r, some i⟩

/-- Slot `i` is VALID and holds the Run `r` (R35). -/
def Par.HasRun (q : Par) (i : Nat) (r : Run) : Prop := q.sr[i]? = some ⟨r, true⟩

/-- A segment is free where no worker scans it and its slot is not VALID (R187). -/
theorem Par.mem_untaken {i : Nat} :
    i ∈ q.untaken ↔ i < q.nseg ∧ (∀ w r, ¬ q.Scans w i r) ∧ ∀ r, ¬ q.HasRun i r := by
  have hworkers : q.workers.any (fun x => x.assigned == some i) = false ↔ ∀ w r, ¬ q.Scans w i r := by
    simp only [List.any_eq_false, beq_iff_eq, Par.Scans]
    constructor
    · intro h w r hw
      exact h _ (List.mem_of_getElem? hw) rfl
    · intro h x hx hi
      obtain ⟨w, hw⟩ := List.mem_iff_getElem?.mp hx
      exact h w x.regs (by rw [hw, ← hi])
  have hslot : (q.sr.getD i ⟨⟨0, 0⟩, false⟩).valid = false ↔ ∀ r, ¬ q.HasRun i r := by
    rw [List.getD_eq_getElem?_getD]
    cases hy : q.sr[i]? with
    | none => simp [Par.HasRun, hy]
    | some y =>
      obtain ⟨r, v⟩ := y
      simp [Par.HasRun, hy]
  simp only [Par.untaken, Par.taken, List.mem_filter, List.mem_range, Bool.not_eq_true', Bool.or_eq_false_iff, hworkers, hslot]

theorem Par.mem_events {e : WorkerEvent} : e ∈ q.events ↔ ∃ w x, q.workers[w]? = some x ∧ e ∈ q.eventsOf w x := by
  simp only [Par.events, List.mem_flatMap, Prod.exists, List.mem_zipIdx_iff_getElem?]
  exact exists_comm

/-- The events that are enabled (R187): an idle worker takes a free segment, or a worker that scans one makes an iteration, or
finishes. -/
theorem Par.events_cases {e : WorkerEvent} (h : e ∈ q.events) :
    (∃ w i, w < q.workers.length ∧ (∀ j r, ¬ q.Scans w j r) ∧ i ∈ q.untaken ∧ e = .take w i) ∨
      ∃ w i r, q.Scans w i r ∧
        (r.k < (q.seg.getD i ⟨0, 0⟩).length ∧ e = .step w ∨ (q.seg.getD i ⟨0, 0⟩).length ≤ r.k ∧ e = .finish w) := by
  obtain ⟨w, ⟨r, a⟩, hx, he⟩ := Par.mem_events.mp h
  cases a with
  | none =>
    obtain ⟨i, hi, rfl⟩ := List.mem_map.mp he
    refine .inl ⟨w, i, (List.getElem?_eq_some_iff.mp hx).1, fun j r' hs => ?_, hi, rfl⟩
    cases hs.symm.trans hx
  | some i =>
    refine .inr ⟨w, i, r, hx, ?_⟩
    simp only [Par.eventsOf] at he
    split at he
    · exact .inl ⟨‹_›, List.mem_singleton.mp he⟩
    · exact .inr ⟨by omega, List.mem_singleton.mp he⟩

/-- With no event enabled no worker scans a segment, and none is free, if there is a worker to take it. -/
theorem Par.events_eq_nil (h : q.events = []) (hw : q.workers ≠ []) : (∀ w i r, ¬ q.Scans w i r) ∧ q.untaken = [] := by
  have hnone {w : Nat} {x : Worker} (hx : q.workers[w]? = some x) : q.eventsOf w x = [] :=
    List.eq_nil_iff_forall_not_mem.mpr fun e he => by simpa [h] using Par.mem_events.mpr ⟨w, x, hx, he⟩
  have hidle (w i : Nat) (r : ScanRegs) : ¬ q.Scans w i r := fun hs => by
    have he := hnone hs
    simp only [Par.eventsOf] at he
    split at he <;> cases he
  refine ⟨hidle, ?_⟩
  obtain ⟨⟨r, a⟩, rest, hcons⟩ := List.exists_cons_of_ne_nil hw
  have hx : q.workers[0]? = some ⟨r, a⟩ := by simp [hcons]
  cases a with
  | none => exact List.map_eq_nil_iff.mp (hnone hx)
  | some i => exact (hidle 0 i r hx).elim

theorem Par.scans_setWorker {w v i : Nat} {x : Worker} {r : ScanRegs} (hw : w < q.workers.length) :
    (q.setWorker w x).Scans v i r ↔ (v = w ∧ x = ⟨r, some i⟩) ∨ (v ≠ w ∧ q.Scans v i r) := by
  by_cases hv : v = w
  · subst hv
    simp [Par.Scans, Par.setWorker, hw]
  · simp [Par.Scans, Par.setWorker, hv, Ne.symm hv]

theorem Par.Scans.lt {w i : Nat} {r : ScanRegs} (h : q.Scans w i r) : w < q.workers.length :=
  (List.getElem?_eq_some_iff.mp h).1

/-! ### What each event does (R187) -/

theorem workerEvent_take (w i : Nat) :
    workerEvent m n target q (.take w i) =
      andThen (coreInit m n (q.seg.getD i ⟨0, 0⟩).start) fun r => .next (q.setWorker w ⟨r, some i⟩) := rfl

theorem workerEvent_step {w i : Nat} {r : ScanRegs} (h : q.Scans w i r) :
    workerEvent m n target q (.step w) = andThen (coreStep m n target r) fun r' => .next (q.setWorker w ⟨r', some i⟩) := by
  have hx : q.workers.getD w Worker.absent = ⟨r, some i⟩ := by rw [List.getD_eq_getElem?_getD, h]; rfl
  simp only [workerEvent, workerStep, hx]

/-- The segment state after WORKER_FINISH of worker `w` on segment `i` with the scan registers `r` (R187). -/
def Par.finished (q : Par) (w i : Nat) (r : ScanRegs) : Par :=
  { q.setWorker w ⟨coreFinish r, none⟩ with sr := q.sr.set i ⟨(coreFinish r).best, true⟩, join := q.join + 1 }

theorem workerEvent_finish {w i : Nat} {r : ScanRegs} (h : q.Scans w i r) :
    workerEvent m n target q (.finish w) = .next (q.finished w i r) := by
  have hx : q.workers.getD w Worker.absent = ⟨r, some i⟩ := by rw [List.getD_eq_getElem?_getD, h]; rfl
  simp only [workerEvent, workerFinish, hx, Par.finished]

theorem Par.scans_finished {w v i j : Nat} {r r' : ScanRegs} (hw : w < q.workers.length) :
    (q.finished w i r).Scans v j r' ↔ v ≠ w ∧ q.Scans v j r' := by
  refine (Par.scans_setWorker hw).trans ?_
  simp

theorem Par.hasRun_finished {w i j : Nat} {r : ScanRegs} {y : Run} (hi : i < q.sr.length) :
    (q.finished w i r).HasRun j y ↔ (j = i ∧ y = (coreFinish r).best) ∨ (j ≠ i ∧ q.HasRun j y) := by
  by_cases hj : j = i
  · subst hj
    simp [Par.HasRun, Par.finished, hi, eq_comm]
  · simp [Par.HasRun, Par.finished, hj, Ne.symm hj]

/-! ### The invariant of the fan-out -/

/-- What every worker event of MAXRUN_PAR keeps: the table is the partition; JOIN counts the valid slots; a worker scans a segment of the
table alone, as MAXRUN_CORE would, and before its slot is valid; and a valid slot holds the Run that MAXRUN_CORE finds. -/
structure FanOut (p : Params) (m : Memory) (n target count : Nat) (q : Par) : Prop where
  nseg : q.nseg = count
  seg : q.seg = partition n count
  slots : q.sr.length = count
  files : q.workers.length = p.nWorkers
  join : q.join = q.sr.countP (·.valid)
  inTable : ∀ w i r, q.Scans w i r → i < count ∧ r.k ≤ (segmentOf n count i).length
  scan : ∀ w i r, q.Scans w i r → coreAfter m n target (segmentOf n count i).start r.k = .next r
  alone : ∀ v w i r r', q.Scans v i r → q.Scans w i r' → v = w
  pending : ∀ w i r y, q.Scans w i r → ¬ q.HasRun i y
  found : ∀ i y, q.HasRun i y →
    ∃ r, maxrunCore m n target (segmentOf n count i).start (segmentOf n count i).length = .next r ∧ y = r.best

theorem FanOut.segment (h : FanOut p m n target count q) {i : Nat} (hi : i < count) (d : Segment) :
    q.seg.getD i d = segmentOf n count i := by
  rw [h.seg, partition_getD hi]

theorem FanOut.lt_of_untaken (h : FanOut p m n target count q) {i : Nat} (hi : i ∈ q.untaken) : i < count :=
  h.nseg ▸ (Par.mem_untaken.mp hi).1

/-- The invariant after worker `w` has been put to segment `i`, which no other worker scans and whose slot is not valid. -/
theorem FanOut.setWorker (h : FanOut p m n target count q) {w i : Nat} {r : ScanRegs} (hw : w < q.workers.length)
    (hi : i < count) (hk : r.k ≤ (segmentOf n count i).length)
    (hr : coreAfter m n target (segmentOf n count i).start r.k = .next r)
    (hothers : ∀ v r', v ≠ w → ¬ q.Scans v i r') (hpending : ∀ y, ¬ q.HasRun i y) :
    FanOut p m n target count (q.setWorker w ⟨r, some i⟩) where
  nseg := h.nseg
  seg := h.seg
  slots := h.slots
  files := List.length_set.trans h.files
  join := h.join
  inTable v j r' hs := by
    rcases (Par.scans_setWorker hw).mp hs with ⟨-, ⟨⟩⟩ | ⟨-, hs⟩
    · exact ⟨hi, hk⟩
    · exact h.inTable v j r' hs
  scan v j r' hs := by
    rcases (Par.scans_setWorker hw).mp hs with ⟨-, ⟨⟩⟩ | ⟨-, hs⟩
    · exact hr
    · exact h.scan v j r' hs
  alone u v j r₁ r₂ hu hv := by
    rcases (Par.scans_setWorker hw).mp hu with ⟨rfl, ⟨⟩⟩ | ⟨hne, hu'⟩ <;>
      rcases (Par.scans_setWorker hw).mp hv with ⟨rfl, hx⟩ | ⟨hne', hv'⟩
    · rfl
    · exact (hothers v r₂ hne' hv').elim
    · cases hx
      exact (hothers u r₁ hne hu').elim
    · exact h.alone u v j r₁ r₂ hu' hv'
  pending v j r' y hs := by
    rcases (Par.scans_setWorker hw).mp hs with ⟨-, ⟨⟩⟩ | ⟨-, hs⟩
    · exact hpending y
    · exact h.pending v j r' y hs
  found := h.found

theorem FanOut.take (h : FanOut p m n target count q) {w i : Nat} {r : ScanRegs} (hw : w < q.workers.length)
    (hi : i ∈ q.untaken) (hr : coreInit m n (segmentOf n count i).start = .next r) :
    FanOut p m n target count (q.setWorker w ⟨r, some i⟩) := by
  obtain ⟨-, hidle, hrun⟩ := Par.mem_untaken.mp hi
  have hk : r.k = 0 := (coreInit_scanned hr).k_eq
  refine h.setWorker hw (h.lt_of_untaken hi) (by omega) ?_ (fun v r' _ => hidle v r') hrun
  rw [hk, coreAfter_zero, hr]

theorem FanOut.step (h : FanOut p m n target count q) {w i : Nat} {r r' : ScanRegs} (hs : q.Scans w i r)
    (hk : r.k < (segmentOf n count i).length) (hr : coreStep m n target r = .next r') :
    FanOut p m n target count (q.setWorker w ⟨r', some i⟩) := by
  have hafter : coreAfter m n target (segmentOf n count i).start (r.k + 1) = .next r' := by
    rw [coreAfter_succ, h.scan w i r hs, andThen_next, hr]
  have hk' : r'.k = r.k + 1 := (coreAfter_scanned hafter).k_eq
  exact h.setWorker hs.lt (h.inTable w i r hs).1 (hk' ▸ hk) (hk' ▸ hafter)
    (fun v r'' hne hv => hne (h.alone v w i r'' r hv hs)) (h.pending w i r · hs)

/-- A slot that becomes valid raises the number of valid slots by one. -/
theorem countP_valid_set {sr : List Slot} {i : Nat} (hi : i < sr.length) (hinv : ∀ y, sr[i]? ≠ some ⟨y, true⟩) (y : Run) :
    (sr.set i ⟨y, true⟩).countP (·.valid) = sr.countP (·.valid) + 1 := by
  have hold : sr[i].valid = false := by
    have hget : sr[i]? = some sr[i] := List.getElem?_eq_getElem hi
    rcases hx : sr[i] with ⟨x, _ | _⟩
    · rfl
    · exact (hinv x (hx ▸ hget)).elim
  simp [List.countP_set hi, hold]

theorem FanOut.finish (h : FanOut p m n target count q) {w i : Nat} {r : ScanRegs} (hs : q.Scans w i r)
    (hk : (segmentOf n count i).length ≤ r.k) : FanOut p m n target count (q.finished w i r) := by
  obtain ⟨hi, hle⟩ := h.inTable w i r hs
  have hslot : i < q.sr.length := h.slots ▸ hi
  have hcore : maxrunCore m n target (segmentOf n count i).start (segmentOf n count i).length = .next (coreFinish r) :=
    maxrunCore_eq_next.mpr ⟨r, le_antisymm hle hk ▸ h.scan w i r hs, rfl⟩
  refine ⟨h.nseg, h.seg, List.length_set.trans h.slots, List.length_set.trans h.files, ?_, ?_, ?_, ?_, ?_, ?_⟩
  · exact (congrArg (· + 1) h.join).trans (countP_valid_set hslot (h.pending w i r · hs) _).symm
  · exact fun v j r' hv => h.inTable v j r' ((Par.scans_finished hs.lt).mp hv).2
  · exact fun v j r' hv => h.scan v j r' ((Par.scans_finished hs.lt).mp hv).2
  · exact fun u v j r₁ r₂ hu hv =>
      h.alone u v j r₁ r₂ ((Par.scans_finished hs.lt).mp hu).2 ((Par.scans_finished hs.lt).mp hv).2
  · intro v j r' y hv hy
    obtain ⟨hne, hv'⟩ := (Par.scans_finished hs.lt).mp hv
    rcases (Par.hasRun_finished hslot).mp hy with ⟨rfl, -⟩ | ⟨-, hy'⟩
    · exact hne (h.alone v w j r' r hv' hs)
    · exact h.pending v j r' y hv' hy'
  · intro j y hy
    rcases (Par.hasRun_finished hslot).mp hy with ⟨rfl, rfl⟩ | ⟨-, hy⟩
    · exact ⟨_, hcore, rfl⟩
    · exact h.found j y hy

end Sys2Proof.Machine
end

section
/-! PROOFS. The end of the fan-out (R188, R190, R196): no worker waits for ever, and when the barrier lifts the slots are those of
MAXRUN_CORE on the segments, whatever the schedule. -/

namespace Sys2Proof.Machine

variable {p : Params} {m : Memory} {n target count fuel : Nat} {sched : List Nat} {q q' : Par}

/-! ### From the events to the whole fan-out -/

/-- What every enabled event keeps holds when the barrier lifts. -/
theorem fanOut_preserves {P : Par → Prop} {e : Par × List Nat}
    (hevent : ∀ q ev q', P q → ev ∈ q.events → workerEvent m n target q ev = .next q' → P q') (hq : P q)
    (h : fanOut m n target fuel sched q = .next e) : P e.1 ∧ e.1.join = e.1.nseg := by
  induction fuel generalizing sched q with
  | zero =>
    rcases fanOut_eq_next h with ⟨hj, rfl⟩ | ⟨_, _, _, hz, -⟩
    · exact ⟨hq, hj⟩
    · cases hz
  | succ fuel ih =>
    rcases fanOut_eq_next h with ⟨hj, rfl⟩ | ⟨_, ev, q', ⟨⟩, hev, hw, hrest⟩
    · exact ⟨hq, hj⟩
    · exact ih (hevent q ev q' hq hev hw) hrest

/-- MAXRUN_PAR begins with no worker assigned and no slot valid (R186). -/
theorem parInit_not_scans (w i : Nat) (r : ScanRegs) : ¬ (parInit p q n count).Scans w i r := by
  simp [Par.Scans, parInit]

theorem parInit_not_hasRun (i : Nat) (r : Run) : ¬ (parInit p q n count).HasRun i r := by
  simp [Par.HasRun, parInit]

theorem parInit_fanOut : FanOut p m n target count (parInit p q n count) where
  nseg := rfl
  seg := rfl
  slots := by simp [parInit]
  files := by simp [parInit]
  join := by
    refine (List.countP_eq_zero.mpr fun y hy => ?_).symm
    obtain ⟨i, -, rfl⟩ := List.mem_map.mp hy
    simp
  inTable w i r hs := (parInit_not_scans w i r hs).elim
  scan w i r hs := (parInit_not_scans w i r hs).elim
  alone v w i r r' hs := (parInit_not_scans v i r hs).elim
  pending w i r _ hs := (parInit_not_scans w i r hs).elim
  found i y hy := (parInit_not_hasRun i y hy).elim

/-- What an enabled event has done (R187): an idle worker has begun a free segment, or a worker has made one iteration of its scan, or
has put the Run of a scan at its end into its slot. -/
theorem FanOut.event_cases (h : FanOut p m n target count q) {ev : WorkerEvent} (hev : ev ∈ q.events)
    (hw : workerEvent m n target q ev = .next q') :
    (∃ w i r, w < q.workers.length ∧ (∀ j r', ¬ q.Scans w j r') ∧ i ∈ q.untaken ∧
        coreInit m n (segmentOf n count i).start = .next r ∧ q' = q.setWorker w ⟨r, some i⟩) ∨
      (∃ w i r r', q.Scans w i r ∧ r.k < (segmentOf n count i).length ∧ coreStep m n target r = .next r' ∧
        q' = q.setWorker w ⟨r', some i⟩) ∨
      ∃ w i r, q.Scans w i r ∧ (segmentOf n count i).length ≤ r.k ∧ q' = q.finished w i r := by
  rcases Par.events_cases hev with ⟨w, i, hlt, hidle, hi, rfl⟩ | ⟨w, i, r, hs, ⟨hk, rfl⟩ | ⟨hk, rfl⟩⟩
  · rw [workerEvent_take, h.segment (h.lt_of_untaken hi)] at hw
    obtain ⟨r, hr, hq'⟩ := andThen_eq_next.mp hw
    exact .inl ⟨w, i, r, hlt, hidle, hi, hr, (Host.Outcome.next.inj hq').symm⟩
  · rw [workerEvent_step hs] at hw
    obtain ⟨r', hr', hq'⟩ := andThen_eq_next.mp hw
    rw [h.segment (h.inTable w i r hs).1] at hk
    exact .inr (.inl ⟨w, i, r, r', hs, hk, hr', (Host.Outcome.next.inj hq').symm⟩)
  · rw [workerEvent_finish hs] at hw
    rw [h.segment (h.inTable w i r hs).1] at hk
    exact .inr (.inr ⟨w, i, r, hs, hk, (Host.Outcome.next.inj hw).symm⟩)

theorem FanOut.event (h : FanOut p m n target count q) {ev : WorkerEvent} (hev : ev ∈ q.events)
    (hw : workerEvent m n target q ev = .next q') : FanOut p m n target count q' := by
  rcases h.event_cases hev hw with ⟨w, i, r, hlt, -, hi, hr, rfl⟩ | ⟨w, i, r, r', hs, hk, hr, rfl⟩ | ⟨w, i, r, hs, hk, rfl⟩
  · exact h.take hlt hi hr
  · exact h.step hs hk hr
  · exact h.finish hs hk

/-- The fan-out of MAXRUN_PAR keeps its invariant up to the barrier. -/
theorem fanOut_parInit {e : Par × List Nat} (h : fanOut m n target fuel sched (parInit p q n count) = .next e) :
    FanOut p m n target count e.1 ∧ e.1.join = e.1.nseg :=
  fanOut_preserves (fun _ _ _ hq hev hw => FanOut.event hq hev hw) parInit_fanOut h

/-! ### The barrier -/

/-- JOIN = NSEG says that every slot is valid (R190). -/
theorem FanOut.lifted_iff (h : FanOut p m n target count q) : q.join = q.nseg ↔ ∀ i, i < count → ∃ y, q.HasRun i y := by
  rw [h.join, h.nseg, ← h.slots, List.countP_eq_length]
  constructor
  · intro hall i hi
    have hvalid : q.sr[i].valid = true := hall _ (List.getElem_mem hi)
    exact ⟨q.sr[i].run, by rw [Par.HasRun, List.getElem?_eq_getElem hi, ← hvalid]⟩
  · intro hall y hy
    obtain ⟨i, hi, rfl⟩ := List.mem_iff_getElem.mp hy
    obtain ⟨r, hr⟩ := hall i hi
    rw [Par.HasRun, List.getElem?_eq_getElem hi, Option.some.injEq] at hr
    simp [hr]

/-- Past the barrier each slot holds the Run of its segment (R190). -/
theorem FanOut.run_of_lifted (h : FanOut p m n target count q) (hj : q.join = q.nseg) {i : Nat} (hi : i < count) :
    ∃ r, maxrunCore m n target (segmentOf n count i).start (segmentOf n count i).length = .next r ∧ q.HasRun i r.best := by
  obtain ⟨y, hy⟩ := h.lifted_iff.mp hj i hi
  obtain ⟨r, hr, rfl⟩ := h.found i y hy
  exact ⟨r, hr, hy⟩

/-- Past the barrier the slots depend on the buffer, the target and the segments alone (R196). -/
theorem FanOut.sr_eq {p' : Params} (h : FanOut p m n target count q) (h' : FanOut p' m n target count q') (hj : q.join = q.nseg)
    (hj' : q'.join = q'.nseg) : q.sr = q'.sr := by
  refine List.ext_getElem? fun i => ?_
  by_cases hi : i < count
  · obtain ⟨r, hr, hy⟩ := h.run_of_lifted hj hi
    obtain ⟨r', hr', hy'⟩ := h'.run_of_lifted hj' hi
    obtain rfl := Host.Outcome.next.inj (hr.symm.trans hr')
    exact hy.trans hy'.symm
  · rw [List.getElem?_eq_none (by have := h.slots; omega), List.getElem?_eq_none (by have := h'.slots; omega)]

/-- With no scan going on and no segment free, the barrier has lifted. -/
theorem FanOut.lifted_of_idle (h : FanOut p m n target count q) (hidle : ∀ w i r, ¬ q.Scans w i r)
    (hfree : ∀ i, i < count → i ∉ q.untaken) : q.join = q.nseg := by
  refine h.lifted_iff.mpr fun i hi => ?_
  have hnot := hfree i hi
  rw [Par.mem_untaken, h.nseg] at hnot
  by_contra hrun
  exact hnot ⟨hi, fun w r => hidle w i r, not_exists.mp hrun⟩

/-! ### Events left to make -/

/-- Segment `i` is done after at most `b` more events: a TAKE, a STEP for each bit and a FINISH where it is free, and what is left of these
where a worker scans it (R256). -/
def Par.Needs (n count : Nat) (q : Par) (i b : Nat) : Prop :=
  (i ∈ q.untaken → (segmentOf n count i).length + 2 ≤ b) ∧
    ∀ w r, q.Scans w i r → (segmentOf n count i).length + 1 ≤ b + r.k

/-- All segments are done after at most `fuel` events. -/
def Par.WithinFuel (n count : Nat) (q : Par) (fuel : Nat) : Prop :=
  ∃ c : Nat → Nat, (∀ i, i < count → q.Needs n count i (c i)) ∧ ∑ i ∈ Finset.range count, c i ≤ fuel

/-- MAXRUN_PAR gives its fan-out the events that it needs. -/
theorem parInit_withinFuel (hcount : count ≠ 0) : (parInit p q n count).WithinFuel n count (fanOutFuel n count) := by
  refine ⟨fun i => (segmentOf n count i).length + 2,
    fun i _ => ⟨fun _ => le_rfl, fun w r hs => (parInit_not_scans w i r hs).elim⟩, ?_⟩
  rw [Finset.sum_add_distrib, sum_segment_lengths hcount, Finset.sum_const, Finset.card_range, smul_eq_mul, fanOutFuel]
  omega

/-- Two segment states differ, in who scans which segment and in the valid slots, at segment `i` only. -/
structure Par.SameBut (q q' : Par) (i : Nat) : Prop where
  nseg : q'.nseg = q.nseg
  scans : ∀ j, j ≠ i → ∀ w r, q'.Scans w j r ↔ q.Scans w j r
  hasRun : ∀ j, j ≠ i → ∀ r, q'.HasRun j r ↔ q.HasRun j r

theorem Par.SameBut.needs {i j b : Nat} (h : q.SameBut q' i) (hj : j ≠ i) (hn : q.Needs n count j b) : q'.Needs n count j b := by
  unfold Par.Needs at hn ⊢
  simpa only [Par.mem_untaken, h.nseg, h.scans j hj, h.hasRun j hj] using hn

theorem Par.sameBut_setWorker {w i : Nat} {r : ScanRegs} (hw : w < q.workers.length)
    (hself : ∀ j r', j ≠ i → ¬ q.Scans w j r') : q.SameBut (q.setWorker w ⟨r, some i⟩) i where
  nseg := rfl
  scans j hj v r' := by
    rw [Par.scans_setWorker hw]
    constructor
    · rintro (⟨-, ⟨⟩⟩ | ⟨-, hs⟩)
      · exact (hj rfl).elim
      · exact hs
    · exact fun hs => .inr ⟨by rintro rfl; exact hself j r' hj hs, hs⟩
  hasRun _ _ _ := Iff.rfl

theorem Par.sameBut_finished {w i : Nat} {r : ScanRegs} (hs : q.Scans w i r) : q.SameBut (q.finished w i r) i where
  nseg := rfl
  scans j hj v r' := by
    rw [Par.scans_finished hs.lt]
    refine ⟨And.right, fun hv => ⟨?_, hv⟩⟩
    rintro rfl
    cases hs.symm.trans hv
    exact hj rfl
  hasRun j hj y := by simp [Par.HasRun, Par.finished, hj.symm]

/-- An event on segment `i` that leaves the others alone and brings `i` nearer to its end spends one unit of fuel. -/
theorem Par.WithinFuel.spend {i : Nat} (h : q.WithinFuel n count (fuel + 1)) (hi : i < count) (hsame : q.SameBut q' i)
    (hself : ∀ b, q.Needs n count i b → 0 < b ∧ q'.Needs n count i (b - 1)) : q'.WithinFuel n count fuel := by
  obtain ⟨c, hc, hsum⟩ := h
  obtain ⟨hpos, hless⟩ := hself (c i) (hc i hi)
  refine ⟨Function.update c i (c i - 1), fun j hj => ?_, ?_⟩
  · by_cases hji : j = i
    · subst hji
      rwa [Function.update_self]
    · rw [Function.update_of_ne hji]
      exact hsame.needs hji (hc j hj)
  · have hlt : ∑ j ∈ Finset.range count, Function.update c i (c i - 1) j < ∑ j ∈ Finset.range count, c j := by
      refine Finset.sum_lt_sum (fun j _ => ?_) ⟨i, Finset.mem_range.mpr hi, ?_⟩
      · by_cases hji : j = i
        · subst hji
          simp
        · simp [hji]
      · simpa using hpos
    omega

/-- Worker `w`, alone on segment `i`, has left to make what its scan registers say. -/
theorem Par.needs_setWorker {w i b : Nat} {r : ScanRegs} (hw : w < q.workers.length)
    (hothers : ∀ v r', v ≠ w → ¬ q.Scans v i r') (hb : (segmentOf n count i).length + 1 ≤ b + r.k) :
    (q.setWorker w ⟨r, some i⟩).Needs n count i b := by
  refine ⟨fun hfree => ?_, fun v r' hv => ?_⟩
  · exact ((Par.mem_untaken.mp hfree).2.1 w r ((Par.scans_setWorker hw).mpr (.inl ⟨rfl, rfl⟩))).elim
  · rcases (Par.scans_setWorker hw).mp hv with ⟨-, ⟨⟩⟩ | ⟨hne, hv'⟩
    · exact hb
    · exact (hothers v r' hne hv').elim

/-- A finished segment needs no more events. -/
theorem FanOut.needs_finished (h : FanOut p m n target count q) {w i : Nat} {r : ScanRegs} (hs : q.Scans w i r) (b : Nat) :
    (q.finished w i r).Needs n count i b := by
  have hslot : i < q.sr.length := h.slots ▸ (h.inTable w i r hs).1
  refine ⟨fun hfree => ?_, fun v r' hv => ?_⟩
  · exact ((Par.mem_untaken.mp hfree).2.2 _ ((Par.hasRun_finished hslot).mpr (.inl ⟨rfl, rfl⟩))).elim
  · obtain ⟨hne, hv'⟩ := (Par.scans_finished hs.lt).mp hv
    exact (hne (h.alone v w i r' r hv' hs)).elim

/-- Every event brings the segment it concerns nearer to its end. -/
theorem FanOut.event_withinFuel (h : FanOut p m n target count q) (hf : q.WithinFuel n count (fuel + 1)) {ev : WorkerEvent}
    (hev : ev ∈ q.events) (hw : workerEvent m n target q ev = .next q') : q'.WithinFuel n count fuel := by
  rcases h.event_cases hev hw with ⟨w, i, r, hlt, hidle, hi, hr, rfl⟩ | ⟨w, i, r, r', hs, hk, hr, rfl⟩ | ⟨w, i, r, hs, hk, rfl⟩
  · have hzero : r.k = 0 := (coreInit_scanned hr).k_eq
    refine hf.spend (h.lt_of_untaken hi) (Par.sameBut_setWorker hlt fun j r' _ => hidle j r') fun b hb => ?_
    have hneed := hb.1 hi
    exact ⟨by omega, Par.needs_setWorker hlt (fun v r' _ => (Par.mem_untaken.mp hi).2.1 v r') (by omega)⟩
  · have hnext : r'.k = r.k + 1 := by
      obtain ⟨c, -, ⟨⟩⟩ := andThen_eq_next.mp hr
      rfl
    have hself : ∀ j r'', j ≠ i → ¬ q.Scans w j r'' := fun j r'' hj hj' => by
      cases hs.symm.trans hj'
      exact hj rfl
    refine hf.spend (h.inTable w i r hs).1 (Par.sameBut_setWorker hs.lt hself) fun b hb => ?_
    have hneed := hb.2 w r hs
    exact ⟨by omega, Par.needs_setWorker hs.lt (fun v r'' hne hv => hne (h.alone v w i r'' r hv hs)) (by omega)⟩
  · obtain ⟨hi, hle⟩ := h.inTable w i r hs
    refine hf.spend hi (Par.sameBut_finished hs) fun b hb => ?_
    have hneed := hb.2 w r hs
    exact ⟨by omega, h.needs_finished hs _⟩

/-! ### The barrier lifts -/

/-- Where MAXRUN_CORE completes on every segment, every enabled event can be made. -/
theorem FanOut.event_enabled (h : FanOut p m n target count q)
    (hcores : ∀ i, i < count →
      ∃ r, maxrunCore m n target (segmentOf n count i).start (segmentOf n count i).length = .next r)
    {ev : WorkerEvent} (hev : ev ∈ q.events) : ∃ q', workerEvent m n target q ev = .next q' := by
  have hafter {i k : Nat} (hi : i < count) (hk : k ≤ (segmentOf n count i).length) :
      ∃ r, coreAfter m n target (segmentOf n count i).start k = .next r := by
    obtain ⟨_, hr⟩ := hcores i hi
    obtain ⟨r, hr, -⟩ := maxrunCore_eq_next.mp hr
    exact coreAfter_of_le hk hr
  rcases Par.events_cases hev with ⟨w, i, -, -, hi, rfl⟩ | ⟨w, i, r, hs, ⟨hk, rfl⟩ | ⟨-, rfl⟩⟩
  · have hlt := h.lt_of_untaken hi
    obtain ⟨r, hr⟩ := hafter hlt (Nat.zero_le _)
    rw [workerEvent_take, h.segment hlt, ← coreAfter_zero (target := target), hr]
    exact ⟨_, rfl⟩
  · have hlt := (h.inTable w i r hs).1
    rw [h.segment hlt] at hk
    obtain ⟨r', hr'⟩ := hafter hlt hk
    rw [coreAfter_succ, h.scan w i r hs, andThen_next] at hr'
    rw [workerEvent_step hs, hr']
    exact ⟨_, rfl⟩
  · exact ⟨_, workerEvent_finish hs⟩

/-- The fan-out lifts its barrier, for every schedule, where MAXRUN_CORE completes on every segment (R190). -/
theorem FanOut.completes (h : FanOut p m n target count q) (hf : q.WithinFuel n count fuel)
    (hcores : ∀ i, i < count →
      ∃ r, maxrunCore m n target (segmentOf n count i).start (segmentOf n count i).length = .next r) (sched : List Nat) :
    ∃ e, fanOut m n target fuel sched q = .next e := by
  induction fuel generalizing q sched with
  | zero =>
    obtain ⟨c, hc, hsum⟩ := hf
    have hneeds (i : Nat) (hi : i < count) : q.Needs n count i 0 := by
      have hzero := Finset.sum_eq_zero_iff.mp (Nat.le_zero.mp hsum) i (Finset.mem_range.mpr hi)
      exact hzero ▸ hc i hi
    have hj : q.join = q.nseg := by
      refine h.lifted_of_idle (fun w i r hs => ?_) (fun i hi hfree => ?_)
      · obtain ⟨hi, hle⟩ := h.inTable w i r hs
        have := (hneeds i hi).2 w r hs
        omega
      · have := (hneeds i hi).1 hfree
        omega
    exact ⟨_, if_pos hj⟩
  | succ fuel ih =>
    rcases fanOut_succ m n target fuel sched q with ⟨-, ht⟩ | ⟨hj, hnil, -⟩ | ⟨-, ev, hev, ht⟩
    · exact ⟨_, ht⟩
    · have hfiles : q.workers ≠ [] := by
        have hpos := p.nWorkers_pos
        rw [← h.files] at hpos
        exact List.ne_nil_of_length_pos hpos
      obtain ⟨hidle, hfree⟩ := Par.events_eq_nil hnil hfiles
      exact (hj (h.lifted_of_idle hidle fun i _ => by simp [hfree])).elim
    · obtain ⟨q', hw⟩ := h.event_enabled hcores hev
      rw [ht, hw]
      exact ih (h.event hev hw) (h.event_withinFuel hf hev hw) _

/-- The fan-out of MAXRUN_PAR completes exactly where MAXRUN_CORE completes on every segment: for one schedule, or for all. -/
theorem fanOut_parInit_completes {p' : Params} {fuel' : Nat} {sched' : List Nat} {e : Par × List Nat} (hcount : count ≠ 0)
    (h : fanOut m n target fuel' sched' (parInit p' q' n count) = .next e) (p : Params) (sched : List Nat) (q : Par) :
    ∃ e', fanOut m n target (fanOutFuel n count) sched (parInit p q n count) = .next e' ∧ e'.1.sr = e.1.sr := by
  obtain ⟨hfan, hj⟩ := fanOut_parInit h
  have hcores (i : Nat) (hi : i < count) :
      ∃ r, maxrunCore m n target (segmentOf n count i).start (segmentOf n count i).length = .next r :=
    (hfan.run_of_lifted hj hi).imp fun _ => And.left
  obtain ⟨e', he'⟩ := (parInit_fanOut (p := p) (q := q)).completes (parInit_withinFuel hcount) hcores sched
  obtain ⟨hfan', hj'⟩ := fanOut_parInit he'
  exact ⟨e', he', hfan'.sr_eq hfan hj' hj⟩

end Sys2Proof.Machine
end

section
/-! PROOFS. The widths of the internal registers (R33 to R36, R215): every step keeps them. -/

namespace Sys2Proof.Machine

variable {p : Params} {s t : State}

/-! ### Free values and fault entry -/

theorem freeRegs_fit (p : Params) (d j : Nat) : (freeRegs p d j).Fit p :=
  ⟨freeWord_lt _ _ _, Nat.le_of_lt_succ (Nat.mod_lt _ (by decide)), freeWord_lt _ _ _, freeWord_lt _ _ _, freeWord_lt _ _ _,
    freeWord_lt _ _ _, freeWord_lt _ _ _, freeWord_lt _ _ _⟩

theorem freePar_fit (p : Params) (d : Nat) : (freePar p d).Fit p where
  nseg := freeWord_lt _ _ _
  seg x hx := by
    obtain ⟨i, -, rfl⟩ := List.mem_map.mp hx
    exact ⟨freeWord_lt _ _ _, freeWord_lt _ _ _⟩
  sr x hx := by
    obtain ⟨i, -, rfl⟩ := List.mem_map.mp hx
    exact ⟨freeWord_lt _ _ _, freeWord_lt _ _ _⟩
  join := freeWord_lt _ _ _
  regs x hx := by
    obtain ⟨i, -, rfl⟩ := List.mem_map.mp hx
    exact freeRegs_fit _ _ _
  assigned x hx i hi := by
    obtain ⟨k, -, rfl⟩ := List.mem_map.mp hx
    dsimp only at hi
    split at hi
    · cases hi
      exact freeWord_lt _ _ _
    · cases hi
  count := by simp [freePar]

theorem Par.Fit.stop {q : Par} (h : q.Fit p) : q.stop.Fit p where
  nseg := h.nseg
  seg := h.seg
  sr x hx := by
    obtain ⟨y, hy, rfl⟩ := List.mem_map.mp hx
    exact h.sr y hy
  join := Nat.two_pow_pos _
  regs x hx := by
    obtain ⟨y, hy, rfl⟩ := List.mem_map.mp hx
    exact h.regs y hy
  assigned x hx i hi := by
    obtain ⟨y, -, rfl⟩ := List.mem_map.mp hx
    cases hi
  count := (List.length_map _).trans h.count

theorem State.InternalsFit.raise (h : s.InternalsFit) (c : FaultCode) (v : Nat) : (s.raise c v).InternalsFit :=
  ⟨h.scan, h.cnt, h.lrN, h.par.stop⟩

theorem State.applyReset_internalsFit (s : State) : s.applyReset.InternalsFit :=
  ⟨freeRegs_fit _ _ _, freeWord_lt _ _ _, freeWord_lt _ _ _, freePar_fit _ _⟩

/-- Outside reset no host event writes an internal register. -/
theorem State.InternalsFit.hostEvent {op : HostOp} (h : s.InternalsFit) (ht : hostEvent op s = .next t) : t.InternalsFit := by
  rcases hostEvent_cases ht with ⟨-, rfl⟩ | ⟨v, -, -, rfl⟩ | ⟨hkept, -⟩ | ⟨a, b, -, -, rfl⟩
  · obtain ⟨hscan, hcnt, hlr, hpar⟩ := s.applyReset_internalsFit
    exact ⟨hscan, hcnt, hlr, hpar⟩
  · exact ⟨h.scan, h.cnt, h.lrN, h.par⟩
  · exact ⟨by rw [hkept.scan, hkept.p]; exact h.scan, by rw [hkept.cnt, hkept.p]; exact h.cnt,
      by rw [hkept.lrN, hkept.p]; exact h.lrN, by rw [hkept.par, hkept.p]; exact h.par⟩
  · exact ⟨h.scan, h.cnt, h.lrN, h.par⟩

/-! ### The fan-out -/

section FanOutWidths

variable {m : Memory} {n target count : Nat} {q q' : Par}

/-- Within the width bound of R215 a worker event keeps every worker's scan registers within their widths (R36). -/
theorem FanOut.event_regsFit (h : FanOut p m n target count q) (hn : 8 * n < 2 ^ p.idxW) {ev : WorkerEvent} (hev : ev ∈ q.events)
    (hw : workerEvent m n target q ev = .next q') (hregs : ∀ x ∈ q.workers, x.regs.Fit p) : ∀ x ∈ q'.workers, x.regs.Fit p := by
  have hset {w : Nat} {y : Worker} (hy : y.regs.Fit p) : ∀ x ∈ q.workers.set w y, x.regs.Fit p := fun x hx => by
    rcases List.mem_or_eq_of_mem_set hx with hx | rfl
    · exact hregs x hx
    · exact hy
  have hlen {w i : Nat} {r : ScanRegs} (hs : q.Scans w i r) : (segmentOf n count i).length < 2 ^ p.idxW := by
    have := segmentOf_end_le (n := n) (h.inTable w i r hs).1
    omega
  rcases h.event_cases hev hw with ⟨w, i, r, -, -, -, hr, rfl⟩ | ⟨w, i, r, r', hs, hk, hr, rfl⟩ | ⟨w, i, r, hs, -, rfl⟩
  · exact hset ((coreInit_scanned hr).fit hn (Nat.two_pow_pos _))
  · have hscanned := coreStep_scanned (coreAfter_scanned (h.scan w i r hs)) hr
    exact hset (hscanned.fit hn (Nat.lt_of_le_of_lt hk (hlen hs)))
  · have hscanned := (coreAfter_scanned (h.scan w i r hs)).finish
    exact hset (hscanned.fit hn (Nat.lt_of_le_of_lt (h.inTable w i r hs).2 (hlen hs)))

/-- Past the barrier the segment state has its widths (R35, R36). -/
theorem FanOut.fit (h : FanOut p m n target count q) (hj : q.join = q.nseg) (hn : 8 * n < 2 ^ p.idxW)
    (hcount : count < 2 ^ p.idxW) (hregs : ∀ x ∈ q.workers, x.regs.Fit p) : q.Fit p where
  nseg := h.nseg ▸ hcount
  seg x hx := by
    rw [h.seg] at hx
    obtain ⟨i, hi, rfl⟩ := List.mem_map.mp hx
    have := segmentOf_end_le (n := n) (List.mem_range.mp hi)
    exact ⟨by omega, by omega⟩
  sr y hy := by
    obtain ⟨i, hi⟩ := List.mem_iff_getElem?.mp hy
    have hlt : i < count := h.slots ▸ (List.getElem?_eq_some_iff.mp hi).1
    obtain ⟨r, hr, hrun⟩ := h.run_of_lifted hj hlt
    obtain rfl := Option.some.inj (hi.symm.trans hrun)
    have hend := segmentOf_end_le (n := n) hlt
    have hscanned := maxrunCore_scanned hr
    have hl := hscanned.bestLen
    have hs := hscanned.bestStart
    exact ⟨by dsimp only; omega, by dsimp only; omega⟩
  join := by rw [hj, h.nseg]; exact hcount
  regs := hregs
  assigned x hx i hi := by
    obtain ⟨w, hw⟩ := List.mem_iff_getElem?.mp hx
    have hs : q.Scans w i x.regs := by rw [Par.Scans, hw, ← hi]
    exact (h.inTable w i x.regs hs).1.trans hcount
  count := h.files

/-- The segment state that MAXRUN_PAR leaves has its widths. -/
theorem fanOut_parInit_fit {fuel : Nat} {sched : List Nat} {e : Par × List Nat} (hq : q.Fit p) (hn : 8 * n < 2 ^ p.idxW)
    (hcount : count < 2 ^ p.idxW) (h : fanOut m n target fuel sched (parInit p q n count) = .next e) : e.1.Fit p := by
  have hinit : ∀ x ∈ (parInit p q n count).workers, x.regs.Fit p := fun x hx => by
    obtain ⟨w, hw, rfl⟩ := List.mem_map.mp hx
    have hlt : w < q.workers.length := hq.count ▸ List.mem_range.mp hw
    rw [List.getD_eq_getElem _ _ hlt]
    exact hq.regs q.workers[w] (List.getElem_mem hlt)
  obtain ⟨⟨hfan, hregs⟩, hj⟩ :=
    fanOut_preserves (P := fun q => FanOut p m n target count q ∧ ∀ x ∈ q.workers, x.regs.Fit p)
      (fun _ _ _ hP hev hw => ⟨hP.1.event hev hw, hP.1.event_regsFit hn hev hw hP.2⟩) ⟨parInit_fanOut, hinit⟩ h
  exact hfan.fit hj hn hcount hregs

end FanOutWidths

/-! ### The commands -/

/-- A command that has passed its width check works on a buffer whose every position fits IDX_W bits (R215). -/
theorem bitlen_lt_of_passed {cs : List (Option Violation)} (h : firstViolation (checkBuflen s :: cs) = none) :
    8 * s.n < 2 ^ s.p.idxW :=
  checkBuflen_eq_none.mp (firstViolation_eq_none.mp h _ (List.mem_cons_self ..))

theorem State.InternalsFit.exec {i : Instr} (h : s.InternalsFit) (hlatch : s.LatchFit) (ht : exec i s = .next t) :
    t.InternalsFit := by
  cases i with
  | addr x =>
    rcases execAddr_eq_next.mp ht with ⟨v, -, rfl⟩ | ⟨-, b, -, rfl⟩
    · exact h.raise _ _
    · exact ⟨h.scan, h.cnt, h.lrN, h.par⟩
  | getbit x =>
    rcases execGetbit_eq_next.mp ht with ⟨v, -, rfl⟩ | ⟨-, b, -, rfl⟩
    · exact h.raise _ _
    · exact ⟨h.scan, h.cnt, h.lrN, h.par⟩
  | count x =>
    rcases execCount_eq_next.mp ht with ⟨v, -, rfl⟩ | ⟨hpass, c, hc, rfl⟩
    · exact h.raise _ _
    · have hbits := bitlen_lt_of_passed hpass
      have hcnt : c ≤ 8 * s.n := countFrom_whole hc ▸ bitCount_le _ _ _
      obtain ⟨hidx, hoff, hpos, -, hcl, hcs, hbl, hbs⟩ := h.scan
      exact ⟨⟨hidx, hoff, hpos, hbits, hcl, hcs, hbl, hbs⟩, hcnt.trans_lt hbits, h.lrN, h.par⟩
  | leadrun x =>
    rcases execLeadrun_eq_next.mp ht with ⟨v, -, rfl⟩ | ⟨hpass, c, hc, e, he, rfl⟩
    · exact h.raise _ _
    · have hbits := bitlen_lt_of_passed hpass
      have hwindow : s.window < 2 ^ s.p.idxW := hlatch.a1
      obtain ⟨⟨-, hpos, hidx, hoff, -⟩, hk, hl⟩ := leadLoop_bounds (cursorInit_inv hc).1 he
      obtain ⟨-, -, -, -, hcl, hcs, hbl, hbs⟩ := h.scan
      refine ⟨⟨?_, hoff, hpos.trans hbits, ?_, hcl, hcs, hbl, hbs⟩, h.cnt, ?_, h.par⟩
      · exact lt_trans (by omega : e.1.idx < 8 * s.n) hbits
      · exact lt_of_le_of_lt (by omega : e.2.1 ≤ s.window) hwindow
      · exact lt_of_le_of_lt (by omega : e.2.2 ≤ s.window) hwindow
  | maxrun x =>
    rcases execMaxrun_eq_next.mp ht with ⟨v, -, rfl⟩ | ⟨hpass, r, hr, rfl⟩
    · exact h.raise _ _
    · exact ⟨(maxrunCore_scanned hr).fit (bitlen_lt_of_passed hpass) hlatch.a1, h.cnt, h.lrN, h.par⟩
  | maxrunPar x =>
    rcases execMaxrunPar_eq_next.mp ht with ⟨v, -, rfl⟩ | ⟨hpass, e, he, rfl⟩
    · exact h.raise _ _
    · exact ⟨h.scan, h.cnt, h.lrN, fanOut_parInit_fit h.par (bitlen_lt_of_passed hpass) hlatch.a0 he⟩

/-- Settles O51: with the latch within its width (R32) and the buffer within the bound of R215, no loop and no worker leaves a value that
does not fit. -/
theorem internalsFitKeptByEveryStep : Obligations.InternalsFitKeptByEveryStep := by
  intro s t hinv hfit h
  have hboth : t.Inv ∧ t.InternalsFit := step_preserves (P := fun u => u.Inv ∧ u.InternalsFit)
    (fun _ d hP => ⟨(State.inv_delay d).mpr hP.1, ⟨hP.2.scan, hP.2.cnt, hP.2.lrN, hP.2.par⟩⟩)
    (fun _ _ _ hP ht => ⟨hP.1.hostEvent ht, hP.2.hostEvent ht⟩)
    (fun _ _ _ hP ht => ⟨hP.1.exec ht, hP.2.exec hP.1.latch ht⟩)
    (fun _ c v hP => ⟨hP.1.raise c v, hP.2.raise c v⟩)
    ⟨hinv, hfit⟩ h
  exact hboth.2

end Sys2Proof.Machine
end

section
/-! PROOFS. No command depends on an earlier one (R39, R242): two states with the same latch, buffer and parameters show the host the
same. -/

namespace Sys2Proof.Machine

variable {s t u v : State}

/-- What the host can see of the end of a command (R259): the block state, FINFO, and the results where they are defined. -/
def SeenAlike (t v : State) : Prop :=
  v.st = t.st ∧ v.finfoRead = t.finfoRead ∧ (t.st = .done → v.res0 = t.res0 ∧ v.res1 = t.res1 ∧ v.res2 = t.res2)

theorem raise_seenAlike (hp : s.p = u.p) (hdraws : s.draws = u.draws) (c : FaultCode) (x : Nat) :
    SeenAlike (s.raise c x) (u.raise c x) := by
  refine ⟨rfl, ?_, nofun⟩
  rw [State.finfoRead_of_fault _ rfl, State.finfoRead_of_fault _ rfl, State.raise_finfo, State.raise_finfo, hp, hdraws]

theorem finish_seenAlike (hp : s.p = u.p) (hdraws : s.draws = u.draws) (r0 r1 r2 : Nat) :
    SeenAlike (s.finish r0 r1 r2) (u.finish r0 r1 r2) :=
  ⟨rfl, rfl, fun _ => by simp [hp, hdraws]⟩

/-- The launch checks read the latch and the parameters alone (R214). -/
theorem checksOf_congr (hp : s.p = u.p) (hlatch : s.latch = u.latch) (i : Instr) : checksOf s i = checksOf u i := by
  cases i <;>
    simp only [checksOf, checkBuflen_latch, checkSegcount_latch, checkPos_latch, checkStart_latch, checkNonempty_latch, hp, hlatch]

/-- A command whose checks fail faults with the first violation (R210, R214). -/
theorem exec_of_violation {i : Instr} {x : Violation} (h : firstViolation (checksOf s i) = some x) :
    exec i s = .next (s.raise x.1 x.2) := by
  obtain ⟨go, hgo, -⟩ := exec_eq_checked i s
  rw [hgo, checked, h]

/-- A command that completes is seen alike from another state with the same latch, buffer and parameters. -/
theorem exec_seenAlike_of_passed {i : Instr} (hp : s.p = u.p) (hlatch : s.latch = u.latch) (hbuf : s.buf = u.buf)
    (hdraws : s.draws = u.draws) (hpass : firstViolation (checksOf s i) = none) (h : exec i s = .next t) :
    ∃ v, exec i u = .next v ∧ SeenAlike t v := by
  have hfail {x : Violation} : firstViolation (checksOf s i) ≠ some x := by simp [hpass]
  have hpass' : firstViolation (checksOf u i) = none := checksOf_congr hp hlatch i ▸ hpass
  have hn : u.n = s.n := congrArg Latch.len hlatch.symm
  have hpos : u.pos = s.pos := congrArg Latch.a0 hlatch.symm
  have hstart : u.start = s.start := congrArg Latch.a0 hlatch.symm
  have hwindow : u.window = s.window := congrArg Latch.a1 hlatch.symm
  have hsegs : u.segCount = s.segCount := congrArg Latch.a0 hlatch.symm
  cases i with
  | addr x =>
    rcases execAddr_eq_next.mp h with ⟨_, hv, -⟩ | ⟨-, b, hb, rfl⟩
    · exact (hfail hv).elim
    · refine ⟨_, execAddr_eq_next.mpr (.inr ⟨hpass', b, ?_, rfl⟩), ?_⟩
      · rw [← hbuf, hn, hpos, hb]
      · rw [hpos]
        exact finish_seenAlike hp hdraws _ _ _
  | getbit x =>
    rcases execGetbit_eq_next.mp h with ⟨_, hv, -⟩ | ⟨-, b, hb, rfl⟩
    · exact (hfail hv).elim
    · refine ⟨_, execGetbit_eq_next.mpr (.inr ⟨hpass', b, ?_, rfl⟩), ?_⟩
      · rw [← hbuf, hn, hpos, hb]
      · rw [hpos]
        exact finish_seenAlike hp hdraws _ _ _
  | count x =>
    rcases execCount_eq_next.mp h with ⟨_, hv, -⟩ | ⟨-, c, hc, rfl⟩
    · exact (hfail hv).elim
    · refine ⟨_, execCount_eq_next.mpr (.inr ⟨hpass', c, ?_, rfl⟩), finish_seenAlike hp hdraws _ _ _⟩
      rw [← hbuf, hn, hc]
  | leadrun x =>
    rcases execLeadrun_eq_next.mp h with ⟨_, hv, -⟩ | ⟨-, c, hc, e, he, rfl⟩
    · exact (hfail hv).elim
    · refine ⟨_, execLeadrun_eq_next.mpr (.inr ⟨hpass', c, ?_, e, ?_, rfl⟩), finish_seenAlike hp hdraws _ _ _⟩
      · rw [← hbuf, hn, hstart, hc]
      · rw [← hbuf, hn, hwindow, he]
  | maxrun x =>
    rcases execMaxrun_eq_next.mp h with ⟨_, hv, -⟩ | ⟨-, r, hr, rfl⟩
    · exact (hfail hv).elim
    · refine ⟨_, execMaxrun_eq_next.mpr (.inr ⟨hpass', r, ?_, rfl⟩), finish_seenAlike hp hdraws _ _ _⟩
      rw [← hbuf, hn, hstart, hwindow, hr]
  | maxrunPar x =>
    rcases execMaxrunPar_eq_next.mp h with ⟨_, hv, -⟩ | ⟨-, e, he, rfl⟩
    · exact (hfail hv).elim
    · have hsome : s.segCount ≠ 0 := checkSegcount_eq_none.mp (firstViolation_eq_none.mp hpass _ (by simp [checksOf]))
      obtain ⟨e', he', hsr⟩ := fanOut_parInit_completes hsome he u.p u.sched u.par
      refine ⟨_, execMaxrunPar_eq_next.mpr (.inr ⟨hpass', e', ?_, rfl⟩), ?_⟩
      · rw [← hbuf, hn, hsegs, he']
      · rw [hsr]
        exact finish_seenAlike hp hdraws _ _ _

/-- Settles O48: the launch checks agree, and a completed command's reads, and so its results, agree; for MAXRUN_PAR whatever the
schedule and the old segment state. -/
theorem noCommandDependsOnEarlier : Obligations.NoCommandDependsOnEarlier := by
  intro i s u t hp hlatch hbuf hdraws h
  cases hv : firstViolation (checksOf s i) with
  | none => exact exec_seenAlike_of_passed hp hlatch hbuf hdraws hv h
  | some x =>
    obtain rfl := Host.Outcome.next.inj ((exec_of_violation hv).symm.trans h)
    exact ⟨_, exec_of_violation (checksOf_congr hp hlatch i ▸ hv), raise_seenAlike hp hdraws _ _⟩

end Sys2Proof.Machine
end

section
/-! PROOFS. The buffer (R50, R51, R55): only a host write outside BUSY changes it, and no command faults the model by a read at or past
L_LEN or by a join barrier that never lifts (R190, R197). -/

namespace Sys2Proof.Machine

variable {s t : State}

/-! ### Who writes the buffer -/

/-- A host event leaves the buffer as it was, or is a write of one byte outside BUSY (R55). -/
theorem hostEvent_buf {op : HostOp} (h : hostEvent op s = .next t) :
    t.buf = s.buf ∨ ∃ a b, op = .writeBuf a b ∧ s.st ≠ .busy ∧ t.buf = Memory.write s.buf a b := by
  rcases hostEvent_cases h with ⟨-, rfl⟩ | ⟨v, -, -, rfl⟩ | ⟨-, hbuf⟩ | ⟨a, b, hop, hst, rfl⟩
  · exact .inl rfl
  · exact .inl rfl
  · exact .inl hbuf
  · exact .inr ⟨a, b, hop, hst, rfl⟩

theorem exec_buf {i : Instr} (h : exec i s = .next t) : t.buf = s.buf := by
  rcases exec_cases h with ⟨c, v, rfl⟩ | ⟨scan, cnt, lrN, par, sched, r0, r1, r2, rfl⟩
  · rfl
  · rfl

/-- The block never writes the buffer (R50). -/
theorem blockMove_buf (h : blockMove s = .next t) : t.buf = s.buf := by
  rcases blockMove_cases s with ⟨i, -, hi⟩ | ⟨r, -, hr⟩
  · exact exec_buf (hi ▸ h)
  · obtain rfl : s.raise .badOpcode s.cmd.toNat = t := by simpa [hr] using h
    rfl

/-- All that a step can do to the buffer. -/
theorem step_buf (h : step s = .next t) :
    t.buf = s.buf ∨ ∃ a b, s.hostOp? = some (.writeBuf a b) ∧ s.st ≠ .busy ∧ t.buf = Memory.write s.buf a b := by
  rcases blockTurn_or_hostTurn s with hblock | hhost
  · exact .inl (blockMove_buf (step_of_blockTurn hblock ▸ h))
  · obtain ⟨d, hd⟩ := step_of_hostTurn hhost
    rw [hd] at h
    rcases hostMove_cases { s with delay := d } with ⟨op, hop, hm⟩ | ⟨-, hnone⟩
    · rcases hostEvent_buf (hm ▸ h) with hbuf | ⟨a, b, rfl, hst, hbuf⟩
      · exact .inl hbuf
      · exact .inr ⟨a, b, hop, hst, hbuf⟩
    · obtain rfl : { s with delay := d } = t := by simpa [hnone] using h
      exact .inl rfl

/-- Settles O18: a step keeps the buffer or makes the host's write, of which the laws of the buffer say what a read returns. -/
theorem bufferWrittenByHostOnly : Obligations.BufferWrittenByHostOnly := by
  intro s t h
  rcases step_buf h with hbuf | ⟨a, b, hop, hst, hbuf⟩ <;> rw [hbuf]
  · exact .inl fun _ => rfl
  · exact .inr ⟨hst, a, b, hop, Memory.read_write_same _ _ _, fun _ ha => Memory.read_write_other _ _ ha⟩

theorem hostWriteBuf_of_busy (h : s.st = .busy) (a : Nat) (b : Byte) :
    hostWriteBuf a b s = .refused (.bufferWriteWhileBusy a) := if_pos h

/-- Settles O19: in the host's turn its write is the step, done or refused by the block state. -/
theorem bufferWriteOutsideBusy : Obligations.BufferWriteOutsideBusy := by
  intro s a b hop hturn
  obtain ⟨d, hd⟩ := step_of_hostOp hturn hop
  refine ⟨fun hst => ?_, fun hst => hd.trans (hostWriteBuf_of_busy (s := { s with delay := d }) hst a b)⟩
  exact ⟨_, hd.trans (hostWriteBuf_eq_next.mpr ⟨hst, rfl⟩), Memory.read_write_same _ _ _, rfl, rfl⟩

/-! ### Sequencing without a model fault -/

theorem andThen_ne_fault {α β : Type} {o : Host.Outcome α Fault Refusal} {g : α → Host.Outcome β Fault Refusal} {f : Fault}
    (ho : o ≠ .fault f) (hg : ∀ a, o = .next a → g a ≠ .fault f) : andThen o g ≠ .fault f := fun h => by
  rcases andThen_eq_fault.mp h with h | ⟨a, ha, h⟩
  · exact ho h
  · exact hg a ha h

theorem checked_ne_fault {cs : List (Option Violation)} {go : Host.Outcome State Fault Refusal} {f : Fault}
    (h : firstViolation cs = none → go ≠ .fault f) : checked s cs go ≠ .fault f := fun hf => by
  obtain ⟨hpass, hgo⟩ := checked_eq_fault.mp hf
  exact h hpass hgo

/-! ### The loops read below L_LEN (R51) -/

section Reads

variable {m : Memory} {n target : Nat}

theorem cursorInit_ne_fault {pos : Nat} (h : pos < 8 * n) (f : Fault) : cursorInit m n pos ≠ .fault f :=
  andThen_ne_fault (memRead_ne_fault (by omega) f) fun _ _ => nofun

/-- CURSOR_ADVANCE from a byte of the buffer reads at most the next one around its end (R106). -/
theorem cursorAdvance_ne_fault {c : Cursor} (h : c.idx < n) (f : Fault) : cursorAdvance m n c ≠ .fault f := by
  rcases cursorAdvance_cases m n c with ⟨-, ha⟩ | ⟨-, i, rfl, ha⟩ <;> rw [ha]
  · exact nofun
  · exact andThen_ne_fault (memRead_ne_fault (nextIndex_lt h) f) fun _ _ => nofun

theorem countFrom_ne_fault {fuel i c : Nat} (h : i + fuel ≤ n) (f : Fault) : countFrom m n target fuel i c ≠ .fault f := by
  induction fuel generalizing i c with
  | zero => exact nofun
  | succ fuel ih => exact andThen_ne_fault (memRead_ne_fault (by omega) f) fun _ _ => ih (by omega)

theorem leadLoop_ne_fault {fuel k l : Nat} {c : Cursor} (hc : c.Inv m n) (f : Fault) :
    leadLoop m n target fuel c k l ≠ .fault f := by
  induction fuel generalizing c k l with
  | zero => exact nofun
  | succ fuel ih =>
    rw [leadLoop]
    split
    · exact nofun
    · exact andThen_ne_fault (cursorAdvance_ne_fault hc.idx_lt f) fun _ hc' => ih (cursorAdvance_inv hc hc')

theorem coreInit_ne_fault {pos : Nat} (h : pos < 8 * n) (f : Fault) : coreInit m n pos ≠ .fault f :=
  andThen_ne_fault (cursorInit_ne_fault h f) fun _ _ => nofun

/-- The next iteration of a scan that MAXRUN_CORE has made so far does not fault the model. -/
theorem coreStep_ne_fault {k : Nat} {r : ScanRegs} (h : r.Scanned m n k) (f : Fault) : coreStep m n target r ≠ .fault f :=
  andThen_ne_fault (cursorAdvance_ne_fault h.cursor.idx_lt f) fun _ _ => nofun

theorem coreAfter_ne_fault {pos : Nat} (h : pos < 8 * n) (k : Nat) (f : Fault) : coreAfter m n target pos k ≠ .fault f := by
  induction k with
  | zero => exact coreAfter_zero (m := m) pos ▸ coreInit_ne_fault h f
  | succ k ih =>
    rw [coreAfter_succ]
    exact andThen_ne_fault ih fun _ hr => coreStep_ne_fault (coreAfter_scanned hr) f

theorem maxrunCore_ne_fault {pos : Nat} (h : pos < 8 * n) (w : Nat) (f : Fault) : maxrunCore m n target pos w ≠ .fault f := by
  rw [maxrunCore, ← andThen_assoc]
  exact andThen_ne_fault (coreAfter_ne_fault h w f) fun _ _ => nofun

end Reads

/-! ### The fan-out of MAXRUN_PAR -/

section Barrier

variable {p : Params} {m : Memory} {n target count fuel : Nat} {q : Par}

/-- The segments of a non-empty buffer start in it (R185). -/
theorem segmentOf_start_lt {i : Nat} (hn : n ≠ 0) (hi : i < count) : (segmentOf n count i).start < 8 * n := by
  have hlt {j : Nat} (hj : j < count) : j * (n / count) < n := by
    rcases Nat.eq_zero_or_pos (n / count) with hzero | hpos
    · simpa [hzero] using Nat.pos_of_ne_zero hn
    · exact (Nat.mul_lt_mul_of_pos_right hj hpos).trans_le (Nat.mul_div_le n count)
  have hinner := hlt hi
  have hlast := hlt (show count - 1 < count by omega)
  unfold segmentOf
  split <;> dsimp only <;> omega

/-- No enabled worker event reads at or past L_LEN (R187, R51). -/
theorem FanOut.event_ne_fault (h : FanOut p m n target count q) (hn : n ≠ 0) {ev : WorkerEvent} (hev : ev ∈ q.events)
    (f : Fault) : workerEvent m n target q ev ≠ .fault f := by
  rcases Par.events_cases hev with ⟨w, i, -, -, hi, rfl⟩ | ⟨w, i, r, hs, ⟨-, rfl⟩ | ⟨-, rfl⟩⟩
  · have hlt := h.lt_of_untaken hi
    rw [workerEvent_take, h.segment hlt]
    exact andThen_ne_fault (coreInit_ne_fault (segmentOf_start_lt hn hlt) f) fun _ _ => nofun
  · rw [workerEvent_step hs]
    exact andThen_ne_fault (coreStep_ne_fault (coreAfter_scanned (h.scan w i r hs)) f) fun _ _ => nofun
  · rw [workerEvent_finish hs]
    exact nofun

/-- Where no event is enabled the barrier has lifted: no worker waits for ever (R197). -/
theorem FanOut.lifted_of_no_event (h : FanOut p m n target count q) (hnil : q.events = []) : q.join = q.nseg := by
  have hfiles : q.workers ≠ [] := List.ne_nil_of_length_pos (h.files ▸ p.nWorkers_pos)
  obtain ⟨hidle, hfree⟩ := Par.events_eq_nil hnil hfiles
  exact h.lifted_of_idle hidle fun i _ => by simp [hfree]

/-- Where the segments need no more events the barrier has lifted (R190). -/
theorem FanOut.lifted_of_no_fuel (h : FanOut p m n target count q) (hf : q.WithinFuel n count 0) : q.join = q.nseg := by
  obtain ⟨c, hc, hsum⟩ := hf
  have hneeds (i : Nat) (hi : i < count) : q.Needs n count i 0 :=
    Finset.sum_eq_zero_iff.mp (Nat.le_zero.mp hsum) i (Finset.mem_range.mpr hi) ▸ hc i hi
  refine h.lifted_of_idle (fun w i r hs => ?_) fun i hi hfree => ?_
  · obtain ⟨hi, hle⟩ := h.inTable w i r hs
    have := (hneeds i hi).2 w r hs
    omega
  · have := (hneeds i hi).1 hfree
    omega

/-- With events enough for its segments a fan-out over a non-empty buffer does not fault the model, whatever the schedule. -/
theorem FanOut.fanOut_ne_fault (h : FanOut p m n target count q) (hf : q.WithinFuel n count fuel) (hn : n ≠ 0)
    (sched : List Nat) (f : Fault) : fanOut m n target fuel sched q ≠ .fault f := by
  induction fuel generalizing q sched with
  | zero =>
    rw [fanOut, if_pos (h.lifted_of_no_fuel hf)]
    exact nofun
  | succ fuel ih =>
    rcases fanOut_succ m n target fuel sched q with ⟨-, ht⟩ | ⟨hj, hnil, -⟩ | ⟨-, ev, hev, ht⟩
    · rw [ht]
      exact nofun
    · exact (hj (h.lifted_of_no_event hnil)).elim
    · rw [ht]
      exact andThen_ne_fault (h.event_ne_fault hn hev f) fun _ hw => ih (h.event hev hw) (h.event_withinFuel hf hev hw) _

end Barrier

/-! ### The commands -/

/-- Settles O46: the launch checks put the first read below L_LEN, the cursor invariant every later one, and the fan-out has as many
events as its segments need. -/
theorem noCommandFaultsTheModel : Obligations.NoCommandFaultsTheModel := by
  intro i s f
  cases i with
  | addr x | getbit x =>
    refine checked_ne_fault fun hpass => andThen_ne_fault (memRead_ne_fault (Nat.div_lt_of_lt_mul ?_) f) fun _ _ => nofun
    exact checkPos_eq_none.mp (firstViolation_eq_none.mp hpass _ (by simp))
  | count x =>
    exact checked_ne_fault fun _ => andThen_ne_fault (countFrom_ne_fault (Nat.zero_add _).le f) fun _ _ => nofun
  | leadrun x =>
    refine checked_ne_fault fun hpass => andThen_ne_fault (cursorInit_ne_fault ?_ f) fun c hc =>
      andThen_ne_fault (leadLoop_ne_fault (cursorInit_inv hc).1 f) fun _ _ => nofun
    exact checkStart_eq_none.mp (firstViolation_eq_none.mp hpass _ (by simp))
  | maxrun x =>
    refine checked_ne_fault fun hpass => andThen_ne_fault (maxrunCore_ne_fault ?_ _ f) fun _ _ => nofun
    exact checkStart_eq_none.mp (firstViolation_eq_none.mp hpass _ (by simp))
  | maxrunPar x =>
    refine checked_ne_fault fun hpass =>
      andThen_ne_fault (parInit_fanOut.fanOut_ne_fault (parInit_withinFuel ?_) ?_ _ f) fun _ _ => nofun
    · exact checkSegcount_eq_none.mp (firstViolation_eq_none.mp hpass _ (by simp))
    · exact fun hn => checkNonempty_eq_none.mp (firstViolation_eq_none.mp hpass _ (by simp)) (congrArg (8 * ·) hn)

end Sys2Proof.Machine
end

section
/-! PROOFS. The encoding of the CMD word (R70 to R73): the fields fix a word, and which words decode. -/

namespace Sys2Proof.Machine

/-! ### The word of an instruction -/

/-- A concatenation of words as a sum. -/
theorem append_toNat {m n : Nat} (x : BitVec m) (y : BitVec n) : (x ++ y).toNat = x.toNat * 2 ^ n + y.toNat := by
  rw [BitVec.toNat_append, ← Nat.shiftLeft_add_eq_or_of_lt y.isLt, Nat.shiftLeft_eq]

/-- The fields of R70 as a sum. -/
theorem encode_toNat (i : Instr) : (encode i).toNat = i.target.toNat * 256 + i.opcode.toNat := by
  have hword : (encode i).toNat = ((0 * 2 ^ 8 + i.target.toNat) * 2 ^ 4 + 0) * 2 ^ 4 + i.opcode.toNat := by
    simp only [encode, append_toNat, BitVec.toNat_ofNat, Nat.zero_mod]
  omega

/-- The values of the fields fix the word: no bit of it stands outside them (R21, R70). -/
theorem eq_encode_iff (w : Word) (i : Instr) :
    w = encode i ↔ cmdReserved w = false ∧ cmdOp w = i.opcode ∧ cmdTarget w = i.target := by
  have hop := i.opcode.isLt
  have htgt := i.target.isLt
  have hw := w.isLt
  rw [← Bool.not_eq_true, cmdReserved_iff, ← BitVec.toNat_inj, ← BitVec.toNat_inj, ← BitVec.toNat_inj, encode_toNat,
    cmdOp_toNat, cmdTarget_toNat]
  omega

/-- A word decodes to an instruction exactly where it is the word of that instruction (R71, R72). -/
theorem decode_eq_ok {w : Word} {i : Instr} : decode w = .ok i ↔ w = encode i :=
  decodeFields_eq_ok.trans (eq_encode_iff w i).symm

/-- Settles O1: an instruction decodes from its own word. -/
theorem decodeOfEncode : Obligations.DecodeOfEncode := fun _ => decode_eq_ok.mpr rfl

/-- Settles O2: the words that decode are those of instructions. -/
theorem encodeOfDecode : Obligations.EncodeOfDecode := fun _ _ h => (decode_eq_ok.mp h).symm

/-! ### The reserved words -/

theorem opcode_bounds (i : Instr) : 1 ≤ i.opcode.toNat ∧ i.opcode.toNat ≤ 6 := by
  cases i <;> simp [Instr.opcode]

/-- The latched fields select no operation exactly where a reserved bit is set or OP is outside the map (R71, R73). -/
theorem decodeFields_ne_ok_iff {rsv : Bool} {op : BitVec 4} {x : Byte} :
    (∀ i, decodeFields rsv op x ≠ .ok i) ↔ rsv = true ∨ op.toNat < 1 ∨ 6 < op.toNat := by
  constructor
  · intro h
    cases hd : decodeFields rsv op x with
    | ok i => exact absurd hd (h i)
    | error r => exact decodeFields_eq_error hd
  · intro h i hi
    obtain ⟨hrsv, rfl, -⟩ := decodeFields_eq_ok.mp hi
    have hop := h.resolve_left (by simp [hrsv])
    have hmap := opcode_bounds i
    omega

/-- Settles O4: the masks of the statement are the fields that the decoder reads. -/
theorem reservedWordsSelectNothing : Obligations.ReservedWordsSelectNothing := by
  intro w
  have hw := w.isLt
  have hlow (x : Word) : (x &&& 0xF#32).toNat = x.toNat % 16 := Nat.and_two_pow_sub_one_eq_mod x.toNat 4
  have hop : w &&& 0xF#32 = 0 ↔ w.toNat % 16 = 0 := by
    rw [← BitVec.toNat_inj, hlow]
    rfl
  have hrsv0 : w >>> 4 &&& 0xF#32 = 0 ↔ w.toNat / 16 % 16 = 0 := by
    rw [← BitVec.toNat_inj, hlow, BitVec.toNat_ushiftRight, Nat.shiftRight_eq_div_pow]
    rfl
  have hrsv1 : w >>> 16 = 0 ↔ w.toNat / 2 ^ 16 = 0 := by
    rw [← BitVec.toNat_inj, BitVec.toNat_ushiftRight, Nat.shiftRight_eq_div_pow]
    rfl
  refine decodeFields_ne_ok_iff.trans ?_
  rw [cmdReserved_iff, cmdOp_toNat, Ne, Ne, Ne, Ne, hrsv0, hrsv1, hop, hlow]
  omega

/-- Settles O3, word by word. -/
theorem decodesWordsOfTheMap : Obligations.DecodesWordsOfTheMap :=
  ⟨rfl, rfl, rfl, rfl, rfl, rfl, rfl, rfl⟩

end Sys2Proof.Machine
end

section
/-! PROOFS. The control flow of the host: BEQ and BNE (R79), WAIT (R80), and the target selector (R81). -/

namespace Sys2Proof.Machine

variable {s : State}

/-! ### Branches -/

/-- A branch on a register that the host has read goes by that value to its target or to the next event (R79). -/
theorem hostBranch_of_lastRead {r v : Nat} (h : s.host.lastRead r = some v) (ifEqual : Bool) (mask value target : Nat) :
    hostBranch ifEqual r mask value target s =
      s.hostGoto (if decide (v &&& mask = value) = ifEqual then target else s.host.pc + 1) := by
  rw [hostBranch, h, apply_ite s.hostGoto]
  rfl

/-- Settles O56: a branch on a register that was read only moves the host in its program. -/
theorem branchesUseLastRead : Obligations.BranchesUseLastRead := by
  intro s r v mask value target h
  refine ⟨?_, ?_, fun e => ?_⟩ <;> rw [hostBranch_of_lastRead h]
  · simp
  · by_cases heq : v &&& mask = value <;> simp [heq]
  · rfl

/-! ### WAIT -/

/-- A read of a register is from then on the last one of it (R79). -/
theorem hostRead_lastRead (s : State) (observed : Bool) (r : Nat) :
    (hostRead observed r s).host.lastRead r = some (s.readReg r).1 := by
  simp [hostRead, HostState.lastRead]

/-- The low three bits of STATUS tell DONE (R24). -/
theorem BlockState.status_low_eq_done (st : BlockState) : st.status.toNat &&& 0x7 = 0x2 ↔ st = .done := by
  cases st with
  | fault c => cases c <;> decide
  | idle | busy | done => decide

/-- The low three bits of STATUS tell FAULT (R24). -/
theorem BlockState.status_low_eq_fault (st : BlockState) : st.status.toNat &&& 0x7 = 0x4 ↔ ∃ c, st = .fault c := by
  cases st with
  | fault c => exact iff_of_true (by cases c <;> rfl) ⟨c, rfl⟩
  | idle | busy | done => exact iff_of_false (by decide) nofun

/-- A branch of WAIT right after its read of STATUS goes to its target where `P`, which the value of the low bits tells, holds of the
block state (R80). -/
theorem hostEvent_branch_of_statusRead {value target : Nat} {P : Prop} (hP : s.st.status.toNat &&& 0x7 = value ↔ P)
    (htarget : target ≠ s.host.pc + 2) :
    ∃ v, hostEvent (.branch true 4 0x7 value target) (hostRead false 4 s) = .next v ∧
      (v.host.pc = target ↔ P) ∧ (v.host.pc = s.host.pc + 2 ↔ ¬P) := by
  refine ⟨_, congrArg Host.Outcome.next (hostBranch_of_lastRead (hostRead_lastRead s false 4) true 0x7 value target), ?_⟩
  have hpc : (hostRead false 4 s).host.pc + 1 = s.host.pc + 2 := rfl
  have hread : (s.readReg 4).1 = s.st.status.toNat := rfl
  rw [State.hostGoto_host, hpc, hread, ← hP]
  by_cases hlow : s.st.status.toNat &&& 0x7 = value <;> simp [hlow, htarget, htarget.symm]

/-- Settles O55: WAIT reads STATUS, of which each branch tests one state. -/
theorem waitEndsInDoneOrFault : Obligations.WaitEndsInDoneOrFault := by
  intro s target htarget
  have hfault := hostEvent_branch_of_statusRead s.st.status_low_eq_fault htarget
  rw [not_exists] at hfault
  exact ⟨_, rfl, hostEvent_branch_of_statusRead s.st.status_low_eq_done htarget, hfault⟩

/-! ### The target selector -/

/-- Settles O57: the names of 0 are none of the names of 1. -/
theorem targetSelector : Obligations.TargetSelector := by
  intro name
  refine ⟨?_, fun h => if_pos h, fun h => ?_⟩
  · rintro (rfl | rfl | rfl) <;> rfl
  · simp only [List.mem_cons, List.not_mem_nil, or_false, not_or] at h
    simp [selectTarget, h]

end Sys2Proof.Machine
end

section
/-! PROOFS. Bit addressing: what ADDR (R100) and GETBIT (R101) complete with and how they agree (R103), and the cursor: its bit (R107)
and its position after `k` advances (R108). -/

namespace Sys2Proof.Machine

/-! ### ADDR and GETBIT -/

section Addressing

variable {x : Byte} {s t : State}

/-- A command that checks its position and then reads the byte there, as ADDR and GETBIT do, completes exactly below bitlen on a byte
that is there (R100, R101). -/
theorem checkedByte_completes_iff {f : Byte → Nat} {r1 r2 : Nat} :
    (checked s [checkBuflen s, checkPos s]
          (andThen (memRead s.buf s.n (s.pos / 8)) fun b => .next (s.finish (f b) r1 r2)) = .next t ∧
        t.st = .done) ↔
      s.bufFits ∧ s.pos < s.bitlen ∧ ∃ b, Memory.read s.buf (s.pos / 8) = some b ∧ t = s.finish (f b) r1 r2 := by
  have hpass : firstViolation [checkBuflen s, checkPos s] = none ↔ s.bufFits ∧ s.pos < s.bitlen := by
    simp [firstViolation_eq_none, checkBuflen_eq_none, checkPos_eq_none, State.bufFits]
  simp only [checked_eq_next, hpass, andThen_eq_next, memRead_eq_next, Host.Outcome.next.injEq]
  constructor
  · rintro ⟨⟨v, -, rfl⟩ | ⟨⟨hfits, hpos⟩, b, ⟨-, hb⟩, rfl⟩, hdone⟩
    · cases hdone
    · exact ⟨hfits, hpos, b, hb, rfl⟩
  · rintro ⟨hfits, hpos, b, hb, rfl⟩
    have hidx : s.pos / 8 < s.n := Nat.div_lt_of_lt_mul hpos
    exact ⟨.inr ⟨⟨hfits, hpos⟩, b, ⟨hidx, hb⟩, rfl⟩, rfl⟩

theorem execAddr_completes_iff :
    (exec (.addr x) s = .next t ∧ t.st = .done) ↔
      s.bufFits ∧ s.pos < s.bitlen ∧
        ∃ b, Memory.read s.buf (s.pos / 8) = some b ∧ t = s.finish b.toNat (s.pos / 8) (s.pos % 8) :=
  checkedByte_completes_iff

theorem execGetbit_completes_iff :
    (exec (.getbit x) s = .next t ∧ t.st = .done) ↔
      s.bufFits ∧ s.pos < s.bitlen ∧
        ∃ b, Memory.read s.buf (s.pos / 8) = some b ∧ t = s.finish (maskedBit b (s.pos % 8)) 0 0 :=
  checkedByte_completes_iff

/-- A bit fits every register of IDX_W bits (R6). -/
theorem maskedBit_lt_two_pow (p : Params) (b : Byte) (off : Nat) : maskedBit b off < 2 ^ p.idxW := by
  have hbit := maskedBit_le_one b off
  have hwidth := sixteen_le_two_pow_idxW p
  omega

/-- The byte index and the offset of a position fit where the position does, so RES1 and RES2 of ADDR hold them (R215). -/
theorem finish_position (hfits : s.bufFits) (hpos : s.pos < s.bitlen) (r0 : Nat) :
    (s.finish r0 (s.pos / 8) (s.pos % 8)).res1 = s.pos / 8 ∧ (s.finish r0 (s.pos / 8) (s.pos % 8)).res2 = s.pos % 8 := by
  have hlt : s.pos < 2 ^ s.p.idxW := hpos.trans hfits
  exact ⟨fit_of_lt _ _ ((Nat.div_le_self ..).trans_lt hlt), fit_of_lt _ _ ((Nat.mod_le ..).trans_lt hlt)⟩

/-- Settles O23: the byte is there, and its index and offset fit. -/
theorem addrCompletes : Obligations.AddrCompletes := by
  intro x s b hfits hpos hb
  obtain ⟨hexec, hdone⟩ := execAddr_completes_iff (x := x).mpr ⟨hfits, hpos, b, hb, rfl⟩
  exact ⟨_, hexec, hdone, fun hbyte => fit_of_lt _ _ hbyte, fit_lt _ _ _ _, finish_position hfits hpos _⟩

/-- Settles O24: bit(pos) is the masked bit of the byte that GETBIT reads. -/
theorem getbitCompletes : Obligations.GetbitCompletes := by
  intro x s v hfits hpos hv
  obtain ⟨b, hb, rfl⟩ := Option.map_eq_some_iff.mp hv
  obtain ⟨hexec, hdone⟩ := execGetbit_completes_iff (x := x).mpr ⟨hfits, hpos, b, hb, rfl⟩
  have hres0 : (s.finish (maskedBit b (s.pos % 8)) 0 0).res0 = maskedBit b (s.pos % 8) :=
    fit_of_lt _ _ (maskedBit_lt_two_pow s.p b _)
  have hzero : 0 < 2 ^ s.p.idxW := Nat.two_pow_pos _
  refine ⟨_, hexec, hdone, hres0, ?_, fit_of_lt _ _ hzero, fit_of_lt _ _ hzero⟩
  rw [hres0]
  exact Nat.le_one_iff_eq_zero_or_eq_one.mp (maskedBit_le_one b _)

/-- The mask of R101 takes from a byte the bit that R103 takes by the shift. -/
theorem maskedBit_eq_shift (b : Byte) {off : Nat} (h : off ≤ 7) : maskedBit b off = (b.toNat >>> (7 - off)) &&& 1 := by
  simp [← bitOfByte_eq_maskedBit b h, bitOfByte]

/-- Settles O25: both commands read the same byte, which an IDX_W of 8 holds whole. -/
theorem addrAndGetbitAgree : Obligations.AddrAndGetbitAgree := by
  intro x y s t u hwidth ht hu htdone hudone
  obtain ⟨hfits, hpos, b, hb, rfl⟩ := execAddr_completes_iff.mp ⟨ht, htdone⟩
  obtain ⟨-, -, b', hb', rfl⟩ := execGetbit_completes_iff.mp ⟨hu, hudone⟩
  obtain rfl : b = b' := Option.some.inj (hb.symm.trans hb')
  have hbyte : b.toNat < 2 ^ s.p.idxW := b.isLt.trans_le (Nat.pow_le_pow_right (by decide) hwidth)
  obtain ⟨hidx, hoff⟩ := finish_position hfits hpos b.toNat
  rw [hidx, hoff, State.finish_res0, State.finish_res0, fit_of_lt _ _ hbyte, fit_of_lt _ _ (maskedBit_lt_two_pow s.p b _)]
  exact ⟨maskedBit_eq_shift b (by omega), (Nat.div_add_mod ..).symm⟩

end Addressing

/-! ### The cursor -/

section CursorLaw

variable {m : Memory} {n : Nat} {c d : Cursor}

/-- Under the cursor invariant CUR_BIT is bit(CUR_POS) (R107). -/
theorem Cursor.Inv.bitIs (h : c.Inv m n) : bitIs m c.pos c.bit :=
  h.pos_eq ▸ Memory.bitAt_byte h.byte_eq (Nat.lt_succ_of_le h.off_le)

/-- CURSOR_ADVANCE goes to the next position around the end of the buffer (R106). -/
theorem cursorAdvance_pos (hlt : c.pos < 8 * n) (h : cursorAdvance m n c = .next d) : d.pos = (c.pos + 1) % (8 * n) := by
  rw [← normalize_eq_mod hlt]
  rcases cursorAdvance_cases m n c with ⟨-, ha⟩ | ⟨-, i, -, ha⟩
  · obtain rfl := Host.Outcome.next.inj (ha.symm.trans h)
    rfl
  · obtain ⟨b, -, hd⟩ := andThen_eq_next.mp (ha.symm.trans h)
    obtain rfl := Host.Outcome.next.inj hd
    rfl

/-- Settles O35: each operation keeps the invariant, and the bit follows from it. -/
theorem cursorInvariantKept : Obligations.CursorInvariantKept :=
  ⟨fun _ _ _ _ _ => cursorInit_inv, fun _ _ _ _ => cursorAdvance_inv, fun _ _ _ => Cursor.Inv.bitIs⟩

/-! On a buffer whose every byte has been supplied (R250) no read of the cursor is refused. -/

section Supplied

variable (hsup : ∀ a, a < n → (Memory.read m a).isSome = true)
include hsup

theorem memRead_completes {a : Nat} (ha : a < n) : ∃ b, memRead m n a = .next b := by
  obtain ⟨b, hb⟩ := Option.isSome_iff_exists.mp (hsup a ha)
  exact ⟨b, memRead_eq_next.mpr ⟨ha, hb⟩⟩

theorem cursorInit_completes {s : Nat} (hs : s < 8 * n) : ∃ c, cursorInit m n s = .next c := by
  obtain ⟨b, hb⟩ := memRead_completes hsup (Nat.div_lt_of_lt_mul hs)
  exact ⟨_, andThen_eq_next.mpr ⟨b, hb, rfl⟩⟩

theorem cursorAdvance_completes (hc : c.idx < n) : ∃ d, cursorAdvance m n c = .next d := by
  rcases cursorAdvance_cases m n c with ⟨-, ha⟩ | ⟨-, i, rfl, ha⟩
  · exact ⟨_, ha⟩
  · obtain ⟨b, hb⟩ := memRead_completes hsup (nextIndex_lt hc)
    exact ⟨_, ha.trans (andThen_eq_next.mpr ⟨b, hb, rfl⟩)⟩

/-- The position law from any cursor that meets its invariant (R105, R108). -/
theorem cursorAdvances_completes (hc : c.Inv m n) (k : Nat) :
    ∃ d, cursorAdvances m n k c = .next d ∧ d.Inv m n ∧ d.pos = (c.pos + k) % (8 * n) := by
  induction k generalizing c with
  | zero => exact ⟨c, rfl, hc, (Nat.mod_eq_of_lt hc.pos_lt).symm⟩
  | succ k ih =>
    obtain ⟨c', hc'⟩ := cursorAdvance_completes hsup hc.idx_lt
    obtain ⟨d, hd, hinv, hpos⟩ := ih (cursorAdvance_inv hc hc')
    refine ⟨d, andThen_eq_next.mpr ⟨c', hc', hd⟩, hinv, ?_⟩
    rw [hpos, cursorAdvance_pos hc.pos_lt hc', Nat.mod_add_mod, Nat.add_right_comm, Nat.add_assoc]

end Supplied

/-- Settles O36: CURSOR_INIT starts the induction over the advances, whose invariant gives the bit. -/
theorem cursorPositionLaw : Obligations.CursorPositionLaw := by
  intro m n s k hs hsup
  obtain ⟨c, hc⟩ := cursorInit_completes hsup hs
  obtain ⟨hinv, rfl⟩ := cursorInit_inv hc
  obtain ⟨d, hd, hdinv, hpos⟩ := cursorAdvances_completes hsup hinv k
  exact ⟨c, d, hc, hd, hpos, hpos ▸ hdinv.bitIs⟩

end CursorLaw

end Sys2Proof.Machine
end

section
/-! PROOFS. COUNT of 0 and COUNT of 1 together count every position of the buffer (R122). -/

namespace Sys2Proof.Machine

variable {m : Memory}

/-- Every position of a supplied buffer holds a bit (R11). -/
theorem Memory.bitAt_zero_or_one {n p : Nat} (hsup : ∀ a, a < n → (Memory.read m a).isSome = true) (hp : p < 8 * n) :
    Memory.bitAt m p = some 0 ∨ Memory.bitAt m p = some 1 := by
  obtain ⟨b, hb⟩ := Option.isSome_iff_exists.mp (hsup (p / 8) (by omega))
  rw [Memory.bitAt, hb, Option.map_some, Option.some_inj, Option.some_inj]
  exact Nat.le_one_iff_eq_zero_or_eq_one.mp (maskedBit_le_one b _)

/-- R121's two sets split the positions of a supplied buffer: 1 is held exactly where 0 is not. -/
theorem bitCount_zero_add_bitCount_one {n : Nat} (hsup : ∀ a, a < n → (Memory.read m a).isSome = true) :
    bitCount m 0 (8 * n) + bitCount m 1 (8 * n) = 8 * n := by
  have hones : bitCount m 1 (8 * n) = (List.range (8 * n)).countP fun p => ¬ (Memory.bitAt m p == some 0) := by
    refine List.countP_congr fun p hp => ?_
    rcases Memory.bitAt_zero_or_one hsup (List.mem_range.mp hp) with h | h <;> simp [h]
  rw [hones, bitCount, ← List.length_eq_countP_add_countP, List.length_range]

/-- Settles O27: each command's RES0 is the tally of its target (R121), and the two tallies add up to bitlen. -/
theorem countsAddUpToBitlen : Obligations.CountsAddUpToBitlen := by
  intro s hfits hsup
  obtain ⟨t, ht, htdone, hzeros, -⟩ := countCompletes 0 s hfits (by decide) hsup
  obtain ⟨u, hu, hudone, hones, -⟩ := countCompletes 1 s hfits (by decide) hsup
  refine ⟨t, u, ht, hu, htdone, hudone, ?_, rfl⟩
  rw [hzeros, hones, ← List.countP_eq_length_filter, ← List.countP_eq_length_filter]
  exact bitCount_zero_add_bitCount_one hsup

end Sys2Proof.Machine
end

section
/-! PROOFS. LEADRUN (R130): its length is that of the leading run of its window (R131), with what follows from that (R132, R133). -/

namespace Sys2Proof.Machine

/-! ### The leading run of a window -/

/-- `l` is the length of the leading run of the window of `w` bits from `start` on, around the end of the buffer: its bits equal the
target, and where it is shorter than the window the bit after it does not (R131, R132). -/
structure LeadingRun (m : Memory) (bitlen target start w l : Nat) : Prop where
  le_window : l ≤ w
  run : ∀ j, j < l → bitIs m ((start + j) % bitlen) target
  stop : l < w → ¬ bitIs m ((start + l) % bitlen) target

section LeadingRunFacts

variable {m : Memory} {bitlen target start w l : Nat}

/-- A target bit before a window is one more bit of the leading run (R130). -/
theorem LeadingRun.cons (hbit : bitIs m (start % bitlen) target)
    (h : LeadingRun m bitlen target ((start + 1) % bitlen) w l) : LeadingRun m bitlen target start (w + 1) (l + 1) := by
  have hshift (j : Nat) : ((start + 1) % bitlen + j) % bitlen = (start + (j + 1)) % bitlen := by
    rw [Nat.mod_add_mod, Nat.add_right_comm, Nat.add_assoc]
  refine ⟨Nat.succ_le_succ h.le_window, fun j hj => ?_, fun hl => hshift l ▸ h.stop (Nat.lt_of_succ_lt_succ hl)⟩
  cases j with
  | zero => exact hbit
  | succ j => exact hshift j ▸ h.run j (Nat.lt_of_succ_lt_succ hj)

/-- No more bits from the start of the window on are all target bits, for they would hold the bit that stops the run (R131). -/
theorem LeadingRun.isGreatest (h : LeadingRun m bitlen target start w l) :
    IsGreatest { l : Nat | l ≤ w ∧ ∀ j, j < l → bitIs m ((start + j) % bitlen) target } l := by
  refine ⟨⟨h.le_window, h.run⟩, fun l' ⟨hle, hrun⟩ => ?_⟩
  by_contra hlt
  rw [not_le] at hlt
  exact h.stop (hlt.trans_le hle) (hrun l hlt)

/-- The run fills its window exactly where the whole window has target bits (R132). -/
theorem LeadingRun.eq_window_iff (h : LeadingRun m bitlen target start w l) :
    l = w ↔ ∀ j, j < w → bitIs m ((start + j) % bitlen) target :=
  ⟨fun hw => hw ▸ h.run, fun hall => le_antisymm h.le_window (h.isGreatest.2 ⟨le_rfl, hall⟩)⟩

/-- The run is shorter than its window exactly where it ends before the first bit that differs (R132). -/
theorem LeadingRun.lt_window_iff (h : LeadingRun m bitlen target start w l) :
    l < w ↔ ∃ j, j < w ∧ ¬ bitIs m ((start + j) % bitlen) target ∧
      (∀ i, i < j → bitIs m ((start + i) % bitlen) target) ∧ l = j := by
  constructor
  · exact fun hlt => ⟨l, hlt, h.stop hlt, h.run, rfl⟩
  · rintro ⟨j, hj, -, -, rfl⟩
    exact hj

/-- Every position of a buffer lies less than bitlen steps after any other, around its end (R12). -/
theorem exists_steps_to {p : Nat} (hs : start < bitlen) (hp : p < bitlen) : ∃ j, j < bitlen ∧ (start + j) % bitlen = p := by
  by_cases hle : start ≤ p
  · exact ⟨p - start, by omega, by rw [Nat.add_sub_cancel' hle, Nat.mod_eq_of_lt hp]⟩
  · refine ⟨p + bitlen - start, by omega, ?_⟩
    rw [Nat.add_sub_cancel' (by omega), Nat.add_mod_right, Nat.mod_eq_of_lt hp]

/-- A leading run of bitlen bits or more goes over the whole buffer (R133). -/
theorem LeadingRun.all_of_bitlen_le (h : LeadingRun m bitlen target start w l) (hs : start < bitlen) (hl : bitlen ≤ l) {p : Nat}
    (hp : p < bitlen) : bitIs m p target := by
  obtain ⟨j, hj, rfl⟩ := exists_steps_to hs hp
  exact h.run j (hj.trans_le hl)

end LeadingRunFacts

/-! ### The loop of R130 -/

section Loop

variable {m : Memory} {n target fuel k l : Nat} {c : Cursor} {e : Cursor × Nat × Nat}

/-- One turn of the loop of R130: a bit that differs ends it, and a target bit is counted. -/
theorem leadLoop_succ (m : Memory) (n target fuel : Nat) (c : Cursor) (k l : Nat) :
    (c.bit ≠ target ∧ leadLoop m n target (fuel + 1) c k l = .next (c, k, l)) ∨
      (c.bit = target ∧ leadLoop m n target (fuel + 1) c k l =
        andThen (cursorAdvance m n c) fun c' => leadLoop m n target fuel c' (k + 1) (l + 1)) := by
  by_cases h : c.bit = target
  · exact .inr ⟨h, by rw [leadLoop, if_neg (not_not_intro h)]⟩
  · exact .inl ⟨h, by rw [leadLoop, if_pos h]⟩

/-- The cursor's bit is the bit at its position, and no other (R107). -/
theorem bitIs_pos_iff (h : c.Inv m n) : bitIs m c.pos target ↔ c.bit = target := by
  rw [bitIs, show Memory.bitAt m c.pos = some c.bit from h.bitIs, Option.some_inj]

/-- The loop of R130 adds to LR_N the length of the leading run from its cursor on (R131). -/
theorem leadLoop_leadingRun (hc : c.Inv m n) (h : leadLoop m n target fuel c k l = .next e) :
    ∃ r, e.2.2 = l + r ∧ LeadingRun m (8 * n) target c.pos fuel r := by
  induction fuel generalizing c k l with
  | zero =>
    obtain rfl := Host.Outcome.next.inj h
    exact ⟨0, rfl, le_rfl, nofun, nofun⟩
  | succ fuel ih =>
    have hhere : c.pos % (8 * n) = c.pos := Nat.mod_eq_of_lt hc.pos_lt
    rcases leadLoop_succ m n target fuel c k l with ⟨hbit, hstep⟩ | ⟨hbit, hstep⟩ <;> rw [hstep] at h
    · obtain rfl := Host.Outcome.next.inj h
      refine ⟨0, rfl, Nat.zero_le _, nofun, fun _ => ?_⟩
      rwa [Nat.add_zero, hhere, bitIs_pos_iff hc]
    · obtain ⟨c', hc', hrest⟩ := andThen_eq_next.mp h
      obtain ⟨r, hr, hrun⟩ := ih (cursorAdvance_inv hc hc') hrest
      rw [cursorAdvance_pos hc.pos_lt hc'] at hrun
      exact ⟨r + 1, by omega, hrun.cons (hhere.symm ▸ (bitIs_pos_iff hc).mpr hbit)⟩

/-- The loop of R130 completes on a buffer whose every byte has been supplied (R250). -/
theorem leadLoop_completes (hsup : ∀ a, a < n → (Memory.read m a).isSome = true) (hc : c.Inv m n) :
    ∃ e, leadLoop m n target fuel c k l = .next e := by
  induction fuel generalizing c k l with
  | zero => exact ⟨_, rfl⟩
  | succ fuel ih =>
    rcases leadLoop_succ m n target fuel c k l with ⟨-, hstep⟩ | ⟨-, hstep⟩ <;> rw [hstep]
    · exact ⟨_, rfl⟩
    · obtain ⟨c', hc'⟩ := cursorAdvance_completes hsup hc.idx_lt
      rw [hc', andThen_next]
      exact ih (cursorAdvance_inv hc hc')

end Loop

/-! ### The command -/

section Command

variable {x : Byte} {s t : State}

theorem leadrun_passes_iff :
    firstViolation [checkBuflen s, checkTarget x, checkStart s] = none ↔
      s.bufFits ∧ x.toNat ≤ 1 ∧ s.start < s.bitlen := by
  simp [firstViolation_eq_none, checkBuflen_eq_none, checkTarget_eq_none, checkStart_eq_none, State.bufFits]

/-- Where LEADRUN completes, its start lies in the buffer, RES0 and LR_N are the length of the leading run of its window, and RES1 and
RES2 are zero (R130). -/
theorem execLeadrun_result (hwindow : s.window < 2 ^ s.p.idxW) (h : exec (.leadrun x) s = .next t) (hdone : t.st = .done) :
    s.start < s.bitlen ∧ LeadingRun s.buf s.bitlen x.toNat s.start s.window t.res0 ∧
      t.res1 = 0 ∧ t.res2 = 0 ∧ t.lrN = t.res0 := by
  rcases execLeadrun_eq_next.mp h with ⟨v, -, rfl⟩ | ⟨hpass, c, hc, e, he, rfl⟩
  · cases hdone
  · obtain ⟨hinv, hpos⟩ := cursorInit_inv hc
    obtain ⟨r, hr, hrun⟩ := leadLoop_leadingRun hinv he
    rw [Nat.zero_add] at hr
    rw [hpos, ← hr] at hrun
    have hres0 := fit_of_lt s.draws 0 (hrun.le_window.trans_lt hwindow)
    have hzero : 0 < 2 ^ s.p.idxW := Nat.two_pow_pos _
    obtain ⟨-, -, hstart⟩ := leadrun_passes_iff.mp hpass
    refine ⟨hstart, ?_, fit_of_lt _ _ hzero, fit_of_lt _ _ hzero, hres0.symm⟩
    rwa [State.finish_res0, hres0]

/-- LEADRUN completes on a supplied buffer where it passes its checks (R130, R250). -/
theorem execLeadrun_completes (hfits : s.bufFits) (hx : x.toNat ≤ 1) (hstart : s.start < s.bitlen) (hsup : s.supplied) :
    ∃ t, exec (.leadrun x) s = .next t ∧ t.st = .done := by
  obtain ⟨c, hc⟩ := cursorInit_completes hsup hstart
  obtain ⟨e, he⟩ := leadLoop_completes hsup (cursorInit_inv hc).1
  exact ⟨_, execLeadrun_eq_next.mpr (.inr ⟨leadrun_passes_iff.mpr ⟨hfits, hx, hstart⟩, c, hc, e, he, rfl⟩), rfl⟩

end Command

/-- Settles O28: the length of the leading run is the greatest of R131. -/
theorem leadrunClosedForm : Obligations.LeadrunClosedForm := by
  intro x s hfits hx hstart hwindow hsup
  obtain ⟨t, ht, hdone⟩ := execLeadrun_completes hfits hx hstart hsup
  obtain ⟨-, hrun, hres⟩ := execLeadrun_result hwindow ht hdone
  exact ⟨t, ht, hdone, hrun.isGreatest, hres⟩

/-- Settles O29: the three bounds are those of the leading run. -/
theorem leadrunBounds : Obligations.LeadrunBounds := by
  intro x s t hwindow ht hdone
  obtain ⟨-, hrun, -⟩ := execLeadrun_result hwindow ht hdone
  exact ⟨hrun.le_window, hrun.eq_window_iff, hrun.lt_window_iff⟩

/-- Settles O30: a run of bitlen bits or more goes over every position of the buffer, so no bit is left to stop it. -/
theorem leadrunLongWindow : Obligations.LeadrunLongWindow := by
  intro x s t hwindow _ ht hdone
  obtain ⟨hstart, hrun, -⟩ := execLeadrun_result hwindow ht hdone
  have hall (hlong : s.bitlen ≤ t.res0) : ∀ p, p < s.bitlen → bitIs s.buf p x.toNat :=
    fun _ => hrun.all_of_bitlen_le hstart hlong
  refine ⟨fun ⟨p, hp, hne⟩ => ?_, fun hlong => ⟨hall hlong, hrun.eq_window_iff.mpr fun j _ => ?_⟩⟩
  · by_contra hlong
    exact hne (hall (not_lt.mp hlong) p hp)
  · exact hall hlong _ (Nat.mod_lt _ (Nat.zero_lt_of_lt hstart))

end Sys2Proof.Machine
end

section
/-! PROOFS. MAXRUN (R150): the loop of R151 computes the closed form of R153, with what follows from that (R158, R159, R160). -/

namespace Sys2Proof.Machine

/-! ### Window runs -/

section WindowRuns

variable {m : Memory} {bitlen target s w o l : Nat} {r best : Run}

/-- The run that is open after the first `k` bits of a window, with its first bit at `o`: all bits from there on equal the target, and the
bit before does not. It is empty where the last bit did not (R151). -/
structure OpenRun (m : Memory) (bitlen target s k o : Nat) : Prop where
  le : o ≤ k
  equal : ∀ j, o ≤ j → j < k → bitIs m ((s + j) % bitlen) target
  left : o = 0 ∨ ¬ bitIs m ((s + (o - 1)) % bitlen) target

/-- A bit that differs, after a window, neither lengthens nor closes a run of it. -/
theorem windowRun_succ_iff (hbit : ¬ bitIs m ((s + w) % bitlen) target) {j0 j1 : Nat} :
    WindowRun m bitlen target s (w + 1) j0 j1 ↔ WindowRun m bitlen target s w j0 j1 := by
  constructor
  · rintro ⟨hne, hin, heq, hl, hr⟩
    have hend : j1 ≠ w + 1 := fun h => hbit (heq w (by omega) (by omega))
    exact ⟨hne, by omega, heq, hl, .inr (hr.resolve_left hend)⟩
  · rintro ⟨hne, hin, heq, hl, hr⟩
    refine ⟨hne, by omega, heq, hl, .inr ?_⟩
    rcases hr with rfl | hr
    · exact hbit
    · exact hr

/-- The window runs of a window are those that ended before its open run, and the open run itself unless it is empty. -/
theorem OpenRun.windowRun_iff (h : OpenRun m bitlen target s w o) {j0 j1 : Nat} :
    WindowRun m bitlen target s w j0 j1 ↔ WindowRun m bitlen target s o j0 j1 ∨ (o < w ∧ j0 = o ∧ j1 = w) := by
  obtain ⟨hle, hopen, hleft⟩ := h
  constructor
  · rintro ⟨hne, hin, heq, hl, hr⟩
    by_cases hj1 : j1 ≤ o
    · exact .inl ⟨hne, hj1, heq, hl, hr.imp_left (by omega)⟩
    · have hstart : o ≤ j0 := by
        by_contra hlt
        exact hleft.elim (by omega) fun hb => hb (heq _ (by omega) (by omega))
      have hfirst : j0 = o := by
        by_contra hgt
        exact hl.elim (by omega) fun hb => hb (hopen _ (by omega) (by omega))
      have hend : j1 = w := by
        by_contra hlt
        exact hr.elim hlt fun hb => hb (hopen _ (by omega) (by omega))
      exact .inr ⟨by omega, hfirst, hend⟩
  · rintro (⟨hne, hin, heq, hl, hr⟩ | ⟨hlt, rfl, rfl⟩)
    · have hend : j1 ≠ o := by
        rintro rfl
        exact hleft.elim (by omega) fun hb => hb (heq _ (by omega) (by omega))
      exact ⟨hne, hin.trans hle, heq, hl, .inr (hr.resolve_left hend)⟩
    · exact ⟨hlt, le_rfl, hopen, hleft, .inl rfl⟩

/-! ### The closed form, bit by bit -/

/-- An empty window has no run (R155). -/
theorem closedForm_zero : ClosedForm m bitlen target s 0 ⟨0, s⟩ :=
  .inr ⟨fun ⟨_, _, h⟩ => absurd (h.nonempty.trans_le h.inside) (Nat.not_lt_zero _), rfl⟩

/-- A bit that differs, after a window, leaves its closed form as it was. -/
theorem ClosedForm.succ (h : ClosedForm m bitlen target s w r) (hbit : ¬ bitIs m ((s + w) % bitlen) target) :
    ClosedForm m bitlen target s (w + 1) r := by
  simpa only [ClosedForm, FirstLongest, windowRun_succ_iff hbit] using h

/-- No window run is longer than the closed form's (R153). -/
theorem ClosedForm.run_le {i0 i1 : Nat} (h : ClosedForm m bitlen target s w r) (hi : WindowRun m bitlen target s w i0 i1) :
    i1 - i0 ≤ r.len := by
  rcases h with ⟨j0, j1, ⟨-, hmax⟩, rfl⟩ | ⟨hnone, -⟩
  · exact (hmax i0 i1 hi).1
  · exact absurd ⟨i0, i1, hi⟩ hnone

/-- KEEP_FIRST_MAX of the closed form of the bits before the open run and of the open run is the closed form of the window (R152). -/
theorem ClosedForm.keepFirstMax_open (h : ClosedForm m bitlen target s o best) (hopen : OpenRun m bitlen target s w o) :
    ClosedForm m bitlen target s w (keepFirstMax best ⟨w - o, (s + o) % bitlen⟩) := by
  have hruns {j0 j1 : Nat} := hopen.windowRun_iff (j0 := j0) (j1 := j1)
  by_cases hlt : best.len < w - o
  · -- The open run is longer than every run before it.
    rw [keepFirstMax, if_pos hlt]
    refine .inl ⟨o, w, ⟨hruns.mpr (.inr ⟨by omega, rfl, rfl⟩), fun i0 i1 hi => ?_⟩, rfl⟩
    rcases hruns.mp hi with hi | ⟨-, rfl, rfl⟩
    · have hle := h.run_le hi
      omega
    · exact ⟨le_rfl, fun _ => le_rfl⟩
  · rw [keepFirstMax, if_neg hlt]
    rcases h with ⟨j0, j1, ⟨hrun, hmax⟩, rfl⟩ | ⟨hnone, rfl⟩
    · -- The best run is at least as long as the open one and comes before it.
      refine .inl ⟨j0, j1, ⟨hruns.mpr (.inl hrun), fun i0 i1 hi => ?_⟩, rfl⟩
      rcases hruns.mp hi with hi | ⟨-, rfl, rfl⟩
      · exact hmax i0 i1 hi
      · exact ⟨not_lt.mp hlt, fun _ => hrun.nonempty.le.trans hrun.inside⟩
    · -- There is no run before the open one, and that is empty.
      refine .inr ⟨fun ⟨i0, i1, hi⟩ => ?_, rfl⟩
      rcases hruns.mp hi with hi | ⟨ho, -, -⟩
      · exact hnone ⟨i0, i1, hi⟩
      · exact hlt (Nat.sub_pos_of_lt ho)

/-! ### What the closed form says -/

/-- The length is within the window (R159). -/
theorem ClosedForm.len_le (h : ClosedForm m bitlen target s w r) : r.len ≤ w := by
  rcases h with ⟨j0, j1, ⟨hrun, -⟩, rfl⟩ | ⟨-, rfl⟩
  · exact (Nat.sub_le _ _).trans hrun.inside
  · exact Nat.zero_le w

/-- The start lies in the buffer (R158). -/
theorem ClosedForm.start_lt (h : ClosedForm m bitlen target s w r) (hs : s < bitlen) : r.start < bitlen := by
  rcases h with ⟨j0, j1, -, rfl⟩ | ⟨-, rfl⟩
  · exact Nat.mod_lt _ (Nat.zero_lt_of_lt hs)
  · exact hs

/-- The start of a run that is not empty is on a target bit (R158). -/
theorem ClosedForm.bitIs_start (h : ClosedForm m bitlen target s w r) (hlen : 0 < r.len) : bitIs m r.start target := by
  rcases h with ⟨j0, j1, ⟨hrun, -⟩, rfl⟩ | ⟨-, rfl⟩
  · exact hrun.equal j0 le_rfl hrun.nonempty
  · exact absurd hlen (Nat.lt_irrefl 0)

/-- A leading run that is not empty is the window run from the first bit on (R131, R153). -/
theorem LeadingRun.windowRun (h : LeadingRun m bitlen target s w l) (hl : 0 < l) : WindowRun m bitlen target s w 0 l :=
  ⟨hl, h.le_window, fun j _ => h.run j, .inl rfl, h.le_window.eq_or_lt.imp_right h.stop⟩

/-- A window run is the leading run of the part of the window that begins with it (R131, R153). -/
theorem WindowRun.leadingRun {j0 j1 : Nat} (h : WindowRun m bitlen target s w j0 j1) :
    LeadingRun m bitlen target ((s + j0) % bitlen) (w - j0) (j1 - j0) := by
  obtain ⟨hne, hin, heq, -, hr⟩ := h
  have hshift (j : Nat) : ((s + j0) % bitlen + j) % bitlen = (s + (j0 + j)) % bitlen := by
    rw [Nat.mod_add_mod, Nat.add_assoc]
  refine ⟨by omega, fun j hj => hshift j ▸ heq _ (by omega) (by omega), fun hlt => ?_⟩
  rw [hshift, Nat.add_sub_cancel' hne.le]
  exact hr.resolve_left (by omega)

/-- The longest run is at least the leading one, and is the leading one where it is no longer (R159). -/
theorem ClosedForm.leadingRun_le (h : ClosedForm m bitlen target s w r) (hl : LeadingRun m bitlen target s w l) (hs : s < bitlen) :
    l ≤ r.len ∧ (r.len = l → r.start = s) := by
  refine ⟨l.eq_zero_or_pos.elim (fun h0 => h0 ▸ Nat.zero_le _) fun hpos => h.run_le (hl.windowRun hpos), fun heq => ?_⟩
  rcases h with ⟨j0, j1, ⟨hrun, hmax⟩, rfl⟩ | ⟨-, rfl⟩
  · have heq : j1 - j0 = l := heq
    have hpos := Nat.sub_pos_of_lt hrun.nonempty
    obtain ⟨-, hfirst⟩ := hmax 0 l (hl.windowRun (heq ▸ hpos))
    obtain rfl : j0 = 0 := Nat.le_zero.mp (hfirst heq.symm)
    exact Nat.mod_eq_of_lt hs
  · rfl

/-- A buffer with a bit that differs has no window run of bitlen bits (R160). -/
theorem WindowRun.lt_bitlen {p j0 j1 : Nat} (h : WindowRun m bitlen target s w j0 j1) (hp : p < bitlen)
    (hbit : ¬ bitIs m p target) : j1 - j0 < bitlen := by
  by_contra hlong
  exact hbit (h.leadingRun.all_of_bitlen_le (Nat.mod_lt _ (Nat.zero_lt_of_lt hp)) (not_lt.mp hlong) hp)

/-- Nor has its longest run bitlen bits (R160). -/
theorem ClosedForm.lt_bitlen {p : Nat} (h : ClosedForm m bitlen target s w r) (hp : p < bitlen) (hbit : ¬ bitIs m p target) :
    r.len < bitlen := by
  rcases h with ⟨j0, j1, ⟨hrun, -⟩, rfl⟩ | ⟨-, rfl⟩
  · exact hrun.lt_bitlen hp hbit
  · exact Nat.zero_lt_of_lt hp

end WindowRuns

/-! ### The loop of R151 -/

section CoreLoop

variable {m : Memory} {n target s k w : Nat} {r r' : ScanRegs}

theorem coreCompare_of_eq (h : r.cursor.bit = target) :
    coreCompare n target r = { r with cur := { r.cur with len := r.cur.len + 1 } } := if_pos h

theorem coreCompare_of_ne (h : r.cursor.bit ≠ target) :
    coreCompare n target r =
      { r with best := keepFirstMax r.best r.cur, cur := ⟨0, normalize (8 * n) (r.cursor.pos + 1)⟩ } := if_neg h

/-- What the scan registers of R151 hold after `k` bits from `s` on, with the current run open from bit `o`: the cursor is at the next bit,
the current run is the open one, and the best is the closed form of the bits before it. -/
structure ScanRegs.Tracks (m : Memory) (n target s k o : Nat) (r : ScanRegs) : Prop where
  cursor : r.cursor.Inv m n
  pos : r.cursor.pos = (s + k) % (8 * n)
  opened : OpenRun m (8 * n) target s k o
  cur : r.cur = ⟨k - o, (s + o) % (8 * n)⟩
  best : ClosedForm m (8 * n) target s o r.best

/-- The final comparison of R151, made after `k` bits, gives their closed form. -/
theorem ScanRegs.Tracks.closedForm {o : Nat} (h : r.Tracks m n target s k o) :
    ClosedForm m (8 * n) target s k (keepFirstMax r.best r.cur) :=
  h.cur ▸ h.best.keepFirstMax_open h.opened

theorem coreInit_tracks (h : coreInit m n s = .next r) : r.Tracks m n target s 0 0 := by
  obtain ⟨c, hc, hr⟩ := andThen_eq_next.mp h
  obtain rfl := Host.Outcome.next.inj hr
  obtain ⟨hinv, rfl⟩ := cursorInit_inv hc
  have hhere : (c.pos + 0) % (8 * n) = c.pos := Nat.mod_eq_of_lt hinv.pos_lt
  refine ⟨hinv, hhere.symm, ⟨le_rfl, by omega, .inl rfl⟩, ?_, closedForm_zero⟩
  rw [hhere]

/-- A target bit lengthens the open run; after one that differs the next run opens at the next bit. -/
theorem coreStep_tracks {o : Nat} (hr : r.Tracks m n target s k o) (h : coreStep m n target r = .next r') :
    ∃ o', r'.Tracks m n target s (k + 1) o' := by
  have hclosed := hr.closedForm
  obtain ⟨hinv, hpos, hopen, hcur, hbest⟩ := hr
  obtain ⟨c, hc, hr'⟩ := andThen_eq_next.mp h
  obtain rfl := Host.Outcome.next.inj hr'
  have hnext : (r.cursor.pos + 1) % (8 * n) = (s + (k + 1)) % (8 * n) := by rw [hpos, Nat.mod_add_mod, Nat.add_assoc]
  have hcpos : c.pos = (s + (k + 1)) % (8 * n) := (cursorAdvance_pos hinv.pos_lt hc).trans hnext
  have hbit : bitIs m ((s + k) % (8 * n)) target ↔ r.cursor.bit = target := hpos ▸ bitIs_pos_iff hinv
  have hcinv := cursorAdvance_inv hinv hc
  by_cases hb : r.cursor.bit = target
  · rw [coreCompare_of_eq hb]
    have hgrown : OpenRun m (8 * n) target s (k + 1) o := by
      refine ⟨Nat.le_succ_of_le hopen.le, fun j hj hjk => ?_, hopen.left⟩
      rcases Nat.lt_succ_iff_lt_or_eq.mp hjk with hjk | rfl
      · exact hopen.equal j hj hjk
      · exact hbit.mpr hb
    refine ⟨o, hcinv, hcpos, hgrown, ?_, hbest⟩
    simp only [hcur, Nat.sub_add_comm hopen.le]
  · rw [coreCompare_of_ne hb]
    refine ⟨k + 1, hcinv, hcpos, ⟨le_rfl, by omega, .inr (mt hbit.mp hb)⟩, ?_, hclosed.succ (mt hbit.mp hb)⟩
    rw [normalize_eq_mod hinv.pos_lt, hnext, Nat.sub_self]

theorem coreAfter_tracks (h : coreAfter m n target s k = .next r) : ∃ o, r.Tracks m n target s k o := by
  induction k generalizing r with
  | zero => exact ⟨0, coreInit_tracks (coreAfter_zero s ▸ h)⟩
  | succ k ih =>
    obtain ⟨r', hr', hstep⟩ := andThen_eq_next.mp (coreAfter_succ s k ▸ h)
    obtain ⟨o, ho⟩ := ih hr'
    exact coreStep_tracks ho hstep

/-- MAXRUN_CORE computes the closed form of R153: its last comparison is with the run that is open at the end of the window. -/
theorem maxrunCore_closedForm (h : maxrunCore m n target s w = .next r) : ClosedForm m (8 * n) target s w r.best := by
  obtain ⟨r', hr', rfl⟩ := maxrunCore_eq_next.mp h
  obtain ⟨o, ho⟩ := coreAfter_tracks hr'
  exact ho.closedForm

/-- MAXRUN_CORE completes on a buffer whose every byte has been supplied (R250). -/
theorem maxrunCore_completes (hsup : ∀ a, a < n → (Memory.read m a).isSome = true) (hs : s < 8 * n) :
    ∃ r, maxrunCore m n target s w = .next r := by
  have hafter (k : Nat) : ∃ r, coreAfter m n target s k = .next r := by
    induction k with
    | zero =>
      obtain ⟨c, hc⟩ := cursorInit_completes hsup hs
      exact ⟨_, (coreAfter_zero s).trans (andThen_eq_next.mpr ⟨c, hc, rfl⟩)⟩
    | succ k ih =>
      obtain ⟨r, hr⟩ := ih
      obtain ⟨c, hc⟩ := cursorAdvance_completes hsup (coreAfter_scanned hr).cursor.idx_lt
      exact ⟨_, (coreAfter_succ s k).trans (andThen_eq_next.mpr ⟨r, hr, andThen_eq_next.mpr ⟨c, hc, rfl⟩⟩)⟩
  obtain ⟨r, hr⟩ := hafter w
  exact ⟨_, maxrunCore_eq_next.mpr ⟨r, hr, rfl⟩⟩

end CoreLoop

/-! ### The command -/

/-- Where MAXRUN completes, its start lies in the buffer, RES0 and RES1 are the closed form of R153, and RES2 is zero (R150). -/
theorem execMaxrun_result {x : Byte} {s t : State} (hwindow : s.window < 2 ^ s.p.idxW) (h : exec (.maxrun x) s = .next t)
    (hdone : t.st = .done) :
    s.start < s.bitlen ∧ ClosedForm s.buf s.bitlen x.toNat s.start s.window ⟨t.res0, t.res1⟩ ∧ t.res2 = 0 := by
  rcases execMaxrun_eq_next.mp h with ⟨v, -, rfl⟩ | ⟨hpass, r, hr, rfl⟩
  · cases hdone
  · -- MAXRUN runs the checks that LEADRUN runs (R213).
    obtain ⟨hfits, -, hstart⟩ := leadrun_passes_iff.mp hpass
    have hclosed := maxrunCore_closedForm hr
    have hlen : r.best.len < 2 ^ s.p.idxW := hclosed.len_le.trans_lt hwindow
    have hbest : r.best.start < 2 ^ s.p.idxW := (hclosed.start_lt hstart).trans hfits
    refine ⟨hstart, ?_, fit_of_lt _ _ (Nat.two_pow_pos _)⟩
    rwa [State.finish_res0, State.finish_res1, fit_of_lt _ _ hlen, fit_of_lt _ _ hbest]

/-- Settles O31: the scan completes on supplied bytes, and its best run is the closed form. -/
theorem maxrunClosedForm : Obligations.MaxrunClosedForm := by
  intro x s hfits hx hstart hwindow hsup
  obtain ⟨r, hr⟩ := maxrunCore_completes hsup hstart
  have hexec := execMaxrun_eq_next.mpr (.inr ⟨leadrun_passes_iff.mpr ⟨hfits, hx, hstart⟩, r, hr, rfl⟩)
  obtain ⟨-, hres⟩ := execMaxrun_result hwindow hexec rfl
  exact ⟨_, hexec, rfl, hres⟩

/-- Settles O32: the start is that of the closed form, and the position after the last bit normalizes to 0. -/
theorem maxrunStartNormalized : Obligations.MaxrunStartNormalized := by
  refine ⟨fun x s t hwindow ht hdone => ?_, fun n target r hne hlast => ?_⟩
  · obtain ⟨hstart, hclosed, -⟩ := execMaxrun_result hwindow ht hdone
    exact ⟨hclosed.start_lt hstart, hclosed.bitIs_start⟩
  · rw [coreCompare_of_ne hne, hlast, normalize_eq_mod le_rfl, Nat.mod_self]

/-- Settles O33: LEADRUN's length is that of the leading run, which is a window run from the start on. -/
theorem maxrunAtLeastLeadrun : Obligations.MaxrunAtLeastLeadrun := by
  intro x s t u hwindow ht hu htdone hudone
  obtain ⟨hstart, hclosed, -⟩ := execMaxrun_result hwindow ht htdone
  obtain ⟨-, hlead, -⟩ := execLeadrun_result hwindow hu hudone
  obtain ⟨hle, hfirst⟩ := hclosed.leadingRun_le hlead hstart
  exact ⟨hclosed.len_le, hle, fun heq _ => hfirst heq⟩

/-- Settles O34: where every bit equals the target the leading run fills the window; a bit that differs bounds every window run. -/
theorem maxrunLongWindow : Obligations.MaxrunLongWindow := by
  intro x s t hwindow _ ht hdone
  obtain ⟨hstart, hclosed, -⟩ := execMaxrun_result hwindow ht hdone
  refine ⟨fun hall => ?_, fun ⟨p, hp, hne⟩ => ⟨hclosed.lt_bitlen hp hne, fun _ _ hrun => hrun.lt_bitlen hp hne⟩⟩
  have hlead : LeadingRun s.buf s.bitlen x.toNat s.start s.window s.window :=
    ⟨le_rfl, fun j _ => hall _ (Nat.mod_lt _ (Nat.zero_lt_of_lt hstart)), fun hlt => absurd hlt (lt_irrefl _)⟩
  obtain ⟨hle, hfirst⟩ := hclosed.leadingRun_le hlead hstart
  have hlen : t.res0 = s.window := le_antisymm hclosed.len_le hle
  exact ⟨hlen, hfirst hlen⟩

end Sys2Proof.Machine
end

section
/-! PROOFS. The partition of MAXRUN_PAR (R182): its segments tile the buffer (R183, R185). -/

namespace Sys2Proof.Machine

variable {n m i : Nat}

/-- Every segment starts after the equal shares of those before it (R182). -/
theorem segmentOf_start (hi : i < m) : (segmentOf n m i).start = 8 * (i * (n / m)) := by
  unfold segmentOf
  split
  · rfl
  · obtain rfl : i = m - 1 := by omega
    rfl

/-- Every segment but the last has an equal share of the bytes (R182). -/
theorem segmentOf_length_inner (hi : i + 1 < m) : (segmentOf n m i).length = 8 * (n / m) := by
  rw [segmentOf, if_pos hi]

/-- The last segment has an equal share and the bytes that are left over (R182, R183). -/
theorem segmentOf_length_last (hm : 1 ≤ m) : (segmentOf n m (m - 1)).length = 8 * (n / m + n % m) := by
  have hsplit : (m - 1) * (n / m) + n / m + n % m = n := by
    rw [← Nat.succ_mul, Nat.succ_eq_add_one, Nat.sub_add_cancel hm, Nat.div_add_mod]
  rw [segmentOf, if_neg (by omega)]
  dsimp only
  omega

/-- Each segment ends where the next one starts (R183). -/
theorem segmentOf_adjacent (hi : i + 1 < m) :
    (segmentOf n m i).start + (segmentOf n m i).length = (segmentOf n m (i + 1)).start := by
  rw [segmentOf_start (by omega), segmentOf_start hi, segmentOf_length_inner hi, Nat.add_one_mul i]
  omega

/-- No segment is empty where there are no more of them than bytes (R183). -/
theorem segmentOf_length_pos (hmn : m ≤ n) (hi : i < m) : 0 < (segmentOf n m i).length := by
  have hshare : 0 < n / m := Nat.div_pos hmn (by omega)
  rcases Nat.lt_or_ge (i + 1) m with hinner | hlast
  · rw [segmentOf_length_inner hinner]
    omega
  · obtain rfl : i = m - 1 := by omega
    rw [segmentOf_length_last (by omega)]
    omega

/-- Segments of rising index do not overlap (R183). -/
theorem segmentOf_end_le_start {j : Nat} (hij : i < j) (hj : j < m) :
    (segmentOf n m i).start + (segmentOf n m i).length ≤ (segmentOf n m j).start := by
  have hle : (i + 1) * (n / m) ≤ j * (n / m) := Nat.mul_le_mul_right _ hij
  rw [segmentOf_adjacent (by omega), segmentOf_start (by omega), segmentOf_start hj]
  omega

/-- The last segment ends with the buffer (R183). -/
theorem segmentOf_last_end (hm : 1 ≤ m) : (segmentOf n m (m - 1)).start + (segmentOf n m (m - 1)).length = 8 * n := by
  have hle : (m - 1) * (n / m) ≤ n := mul_div_le_of_le (Nat.sub_le _ _)
  rw [segmentOf, if_neg (by omega)]
  dsimp only
  omega

/-- Every position of the buffer lies in a segment: in that of its equal share, or in the last (R183). -/
theorem exists_segmentOf {p : Nat} (hm : 1 ≤ m) (hmn : m ≤ n) (hp : p < 8 * n) :
    ∃ i, i < m ∧ (segmentOf n m i).start ≤ p ∧ p < (segmentOf n m i).start + (segmentOf n m i).length := by
  rcases Nat.lt_or_ge p (8 * ((m - 1) * (n / m))) with hinner | hlast
  · have hshare : 0 < n / m := Nat.div_pos hmn hm
    have hi : p / 8 / (n / m) < m - 1 := Nat.div_lt_of_lt_mul (by rw [Nat.mul_comm]; omega)
    have hfrom : p / 8 / (n / m) * (n / m) ≤ p / 8 := Nat.div_mul_le_self _ _
    have hto : p / 8 < (p / 8 / (n / m) + 1) * (n / m) := by
      rw [Nat.mul_comm]
      exact Nat.lt_mul_div_succ _ hshare
    refine ⟨p / 8 / (n / m), by omega, ?_, ?_⟩
    · rw [segmentOf_start (by omega)]
      omega
    · rw [segmentOf_adjacent (by omega), segmentOf_start (by omega)]
      omega
  · refine ⟨m - 1, by omega, ?_, ?_⟩
    · rwa [segmentOf_start (by omega)]
    · rwa [segmentOf_last_end hm]

/-- Settles O37: equal shares side by side, and the rest of the bytes to the last segment. -/
theorem partitionExact : Obligations.PartitionExact := by
  intro n m hm hmn
  refine ⟨by simp [partition], fun i hi => ⟨by simp [partition, hi], segmentOf_length_pos hmn hi⟩,
    fun i hi => ⟨segmentOf_adjacent hi, segmentOf_length_inner hi⟩, fun _ _ => segmentOf_end_le_start,
    fun p => ⟨exists_segmentOf hm hmn, fun ⟨i, hi, _, hp⟩ => hp.trans_le (segmentOf_end_le hi)⟩, segmentOf_length_last hm, ?_⟩
  have hrest : n % m < m := Nat.mod_lt _ hm
  rw [segmentOf_length_last hm]
  omega

/-- Settles O38: on an empty buffer the checks of R214 up to BAD_START pass. -/
theorem segmentsInsideBuffer : Obligations.SegmentsInsideBuffer := by
  refine ⟨fun n m i hi => ⟨segmentOf_end_le hi, fun hn => segmentOf_start_lt hn.ne' hi, fun hn => ?_⟩,
    fun x s hempty hx hsegs => exec_of_violation (x := (.badStart, 0)) ?_⟩
  · rw [segmentOf_start hi, hn, Nat.zero_div, Nat.mul_zero, Nat.mul_zero]
  · have hfits : s.bitlen < 2 ^ s.p.idxW := hempty ▸ Nat.two_pow_pos _
    rw [checksOf, checkBuflen_eq_none.mpr hfits, checkTarget_eq_none.mpr hx, checkSegcount_eq_none.mpr hsegs, checkNonempty,
      if_pos hempty]
    rfl

end Sys2Proof.Machine
end

section
/-! PROOFS. The combine of MAXRUN_PAR (R191): KEEP_FIRST_MAX is associative, so every in-order tree of it (R192) gives the fold, which is
the first Run of the greatest length (R193). -/

namespace Sys2Proof.Machine

/-- Both groupings of three Runs give the leftmost of greatest length (R192). -/
theorem keepFirstMax_assoc (a b c : Run) :
    keepFirstMax (keepFirstMax a b) c = keepFirstMax a (keepFirstMax b c) ∧
      keepFirstMax (keepFirstMax a b) c = if b.len ≤ a.len ∧ c.len ≤ a.len then a else if c.len ≤ b.len then b else c := by
  simp only [keepFirstMax]
  split_ifs <;> simp_all <;> omega

theorem keepFirstMax_associative : Std.Associative keepFirstMax :=
  ⟨fun a b c => (keepFirstMax_assoc a b c).1⟩

/-- The fold may begin with any part of the Runs (R192). -/
theorem foldRuns_append {as bs : List Run} (ha : as ≠ []) (hb : bs ≠ []) :
    foldRuns (as ++ bs) = keepFirstMax (foldRuns as) (foldRuns bs) := by
  obtain ⟨a, as, rfl⟩ := List.exists_cons_of_ne_nil ha
  obtain ⟨b, bs, rfl⟩ := List.exists_cons_of_ne_nil hb
  have := keepFirstMax_associative
  rw [List.cons_append, foldRuns, foldRuns, foldRuns, List.foldl_append, List.foldl_cons, List.foldl_assoc]

theorem CombineTree.leaves_ne_nil (tree : CombineTree) : tree.leaves ≠ [] := by
  induction tree with
  | leaf r => exact List.cons_ne_nil _ _
  | node l r ihl _ => exact List.append_ne_nil_of_left_ne_nil ihl _

theorem CombineTree.value_eq_foldRuns (tree : CombineTree) : tree.value = foldRuns tree.leaves := by
  induction tree with
  | leaf r => rfl
  | node l r ihl ihr => rw [CombineTree.value, CombineTree.leaves, foldRuns_append l.leaves_ne_nil r.leaves_ne_nil, ihl, ihr]

/-- The block folds the Runs of its slots (R191). -/
theorem reduceSlots_eq_foldRuns (sr : List Slot) : reduceSlots sr = foldRuns (sr.map (·.run)) := by
  cases sr with
  | nil => rfl
  | cons x sr => exact List.foldl_map.symm

/-- Settles O42: by induction on the tree, whose two subtrees have leaves. -/
theorem combineTreeIsFold : Obligations.CombineTreeIsFold := by
  refine ⟨keepFirstMax_assoc, CombineTree.value_eq_foldRuns, fun tree sr hleaves => ?_⟩
  rw [reduceSlots_eq_foldRuns, ← hleaves, tree.value_eq_foldRuns]

/-- Run `i` is the first of the greatest length (R193). -/
def FirstGreatest (rs : List Run) (i : Nat) (r : Run) : Prop :=
  rs[i]? = some r ∧ ∀ (j : Nat) (y : Run), rs[j]? = some y → y.len ≤ r.len ∧ (y.len = r.len → i ≤ j)

/-- The fold is the first Run of the greatest length (R193). -/
theorem foldRuns_firstGreatest {rs : List Run} (h : rs ≠ []) : ∃ i, FirstGreatest rs i (foldRuns rs) := by
  induction rs with
  | nil => exact (h rfl).elim
  | cons r rs ih =>
    by_cases hrs : rs = []
    · subst hrs
      refine ⟨0, rfl, fun j y hy => ⟨?_, fun _ => Nat.zero_le j⟩⟩
      obtain rfl := List.mem_singleton.mp (List.mem_of_getElem? hy)
      exact le_rfl
    obtain ⟨i, hi, hmax⟩ := ih hrs
    have hfold : foldRuns (r :: rs) = keepFirstMax r (foldRuns rs) := foldRuns_append (List.cons_ne_nil r []) hrs
    rw [hfold]
    by_cases hlt : r.len < (foldRuns rs).len
    · -- A later Run is longer than the first.
      rw [keepFirstMax, if_pos hlt]
      refine ⟨i + 1, hi, fun j y hy => ?_⟩
      cases j with
      | zero =>
        obtain rfl := Option.some.inj hy
        exact ⟨hlt.le, fun heq => absurd heq hlt.ne⟩
      | succ j =>
        obtain ⟨hle, hfirst⟩ := hmax j y hy
        exact ⟨hle, fun heq => Nat.succ_le_succ (hfirst heq)⟩
    · rw [keepFirstMax, if_neg hlt]
      refine ⟨0, rfl, fun j y hy => ⟨?_, fun _ => Nat.zero_le j⟩⟩
      cases j with
      | zero => exact (congrArg Run.len (Option.some.inj hy)).ge
      | succ j => exact (hmax j y hy).1.trans (not_lt.mp hlt)

end Sys2Proof.Machine
end

section
/-! PROOFS. MAXRUN_PAR (R180): for every schedule it completes with the fold of the Runs of its segments (R191, R193, R196). -/

namespace Sys2Proof.Machine

/-! ### Stretches of target bits -/

section Stretches

variable {m : Memory} {bitlen target s w a b o : Nat} {r : Run}

/-- An empty closed form is (0, s) (R153, R155). -/
theorem ClosedForm.eq_of_len_eq_zero (h : ClosedForm m bitlen target s w r) (hlen : r.len = 0) : r = ⟨0, s⟩ := by
  rcases h with ⟨j0, j1, ⟨hrun, -⟩, rfl⟩ | ⟨-, rfl⟩
  · exact absurd hlen (Nat.sub_pos_of_lt hrun.nonempty).ne'
  · rfl

/-- A stretch of target bits is the end of a run that is open after it. -/
theorem exists_openRun (hab : a ≤ b) (heq : ∀ j, a ≤ j → j < b → bitIs m ((s + j) % bitlen) target) :
    ∃ o, o ≤ a ∧ OpenRun m bitlen target s b o := by
  induction a with
  | zero => exact ⟨0, le_rfl, hab, heq, .inl rfl⟩
  | succ a ih =>
    by_cases hbit : bitIs m ((s + a) % bitlen) target
    · have heq' (j : Nat) (hj : a ≤ j) (hjb : j < b) : bitIs m ((s + j) % bitlen) target :=
        hj.eq_or_lt.elim (fun h => h ▸ hbit) fun h => heq j h hjb
      obtain ⟨o, ho, hopen⟩ := ih (by omega) heq'
      exact ⟨o, by omega, hopen⟩
    · exact ⟨a + 1, le_rfl, hab, heq, .inr hbit⟩

/-- An open run that is not empty is the beginning of a window run of every longer window. -/
theorem OpenRun.exists_windowRun (h : OpenRun m bitlen target s b o) (ho : o < b) (hbw : b ≤ w) :
    ∃ j1, b ≤ j1 ∧ WindowRun m bitlen target s w o j1 := by
  induction hbw using Nat.decreasingInduction with
  | self => exact ⟨w, le_rfl, ho, le_rfl, h.equal, h.left, .inl rfl⟩
  | of_succ b hb ih =>
    by_cases hbit : bitIs m ((s + b) % bitlen) target
    · have heq (j : Nat) (hj : o ≤ j) (hjb : j < b + 1) : bitIs m ((s + j) % bitlen) target :=
        (Nat.lt_succ_iff_lt_or_eq.mp hjb).elim (h.equal j hj) fun h => h ▸ hbit
      obtain ⟨j1, hj1, hrun⟩ := ih ⟨by omega, heq, h.left⟩ (by omega)
      exact ⟨j1, by omega, hrun⟩
    · exact ⟨b, le_rfl, ho, hb.le, h.equal, h.left, .inr hbit⟩

/-- No stretch of target bits in the window is longer than the closed form's run (R153). -/
theorem ClosedForm.stretch_le (h : ClosedForm m bitlen target s w r) (hbw : b ≤ w)
    (heq : ∀ j, a ≤ j → j < b → bitIs m ((s + j) % bitlen) target) : b - a ≤ r.len := by
  rcases Nat.lt_or_ge a b with hab | hba
  · obtain ⟨o, ho, hopen⟩ := exists_openRun hab.le heq
    obtain ⟨j1, hj1, hrun⟩ := hopen.exists_windowRun (by omega) hbw
    have hle := h.run_le hrun
    omega
  · omega

end Stretches

/-! ### The Runs of the segments -/

theorem partition_getElem?_eq_some {n count i : Nat} {g : Segment} :
    (partition n count)[i]? = some g ↔ i < count ∧ segmentOf n count i = g := by
  simp [partition, List.getElem?_eq_some_iff]

section SegmentRunsFacts

variable {m : Memory} {n target count i : Nat} {rs rs' : List Run} {r : Run}

/-- Run `i` is that of MAXRUN_CORE on segment `i`, the window alone (R153, R187). -/
theorem SegmentRuns.get (h : SegmentRuns m n target count rs) (hi : rs[i]? = some r) :
    i < count ∧
      ∃ e, maxrunCore m n target (segmentOf n count i).start (segmentOf n count i).length = .next e ∧ r = e.best := by
  obtain ⟨hlen, hcores⟩ := h
  obtain ⟨hlt, -⟩ := List.getElem?_eq_some_iff.mp hi
  have hlt : i < count := hlen ▸ hlt
  obtain ⟨e, he, hbest⟩ := hcores i hlt
  exact ⟨hlt, e, he, Option.some.inj (hi.symm.trans hbest)⟩

/-- Run `i` is the closed form of R153 on segment `i`. -/
theorem SegmentRuns.closedForm (h : SegmentRuns m n target count rs) (hi : rs[i]? = some r) :
    ClosedForm m (8 * n) target (segmentOf n count i).start (segmentOf n count i).length r := by
  obtain ⟨-, e, he, rfl⟩ := h.get hi
  exact maxrunCore_closedForm he

/-- A Run depends on the buffer, the target and its own segment alone (R196). -/
theorem SegmentRuns.getElem?_congr {count' j : Nat} (h : SegmentRuns m n target count rs) (h' : SegmentRuns m n target count' rs')
    (hi : i < count) (hj : j < count') (hseg : segmentOf n count i = segmentOf n count' j) : rs[i]? = rs'[j]? := by
  obtain ⟨e, he, hbest⟩ := h.2 i hi
  obtain ⟨e', he', hbest'⟩ := h'.2 j hj
  obtain rfl := Host.Outcome.next.inj (he.symm.trans (hseg ▸ he'))
  exact hbest.trans hbest'.symm

/-- The Runs of the segments are determined by the buffer, the target and the partition (R196). -/
theorem SegmentRuns.unique (h : SegmentRuns m n target count rs) (h' : SegmentRuns m n target count rs') : rs = rs' := by
  refine List.ext_getElem? fun i => ?_
  by_cases hi : i < count
  · exact h.getElem?_congr h' hi hi rfl
  · rw [List.getElem?_eq_none (h.1.trans_le (not_lt.mp hi)), List.getElem?_eq_none (h'.1.trans_le (not_lt.mp hi))]

/-- The fold is the first Run of the greatest length among those of the segments (R193). -/
theorem SegmentRuns.firstGreatest (h : SegmentRuns m n target count rs) (hcount : count ≠ 0) :
    ∃ i, FirstGreatest rs i (foldRuns rs) :=
  foldRuns_firstGreatest (List.ne_nil_of_length_pos (h.1 ▸ Nat.pos_of_ne_zero hcount))

/-- The length and the start of the fold are those of a Run in the buffer (R185). -/
theorem SegmentRuns.foldRuns_bounds (h : SegmentRuns m n target count rs) (hcount : count ≠ 0) :
    (foldRuns rs).len ≤ 8 * n ∧ (foldRuns rs).start < 8 * n := by
  obtain ⟨i, hget, -⟩ := h.firstGreatest hcount
  obtain ⟨hi, e, he, hbest⟩ := h.get hget
  obtain ⟨-, -, -, -, hlen, hstart⟩ := maxrunCore_scanned he
  have hend := segmentOf_end_le (n := n) hi
  rw [hbest]
  omega

/-- Where every Run is empty the fold is the first one, which has the start of the first segment (R193). -/
theorem SegmentRuns.foldRuns_eq_zero (h : SegmentRuns m n target count rs) (hcount : count ≠ 0) (hzero : ∀ r ∈ rs, r.len = 0) :
    foldRuns rs = ⟨0, 0⟩ := by
  have hpos : 0 < count := Nat.pos_of_ne_zero hcount
  obtain ⟨i, hi, hmax⟩ := h.firstGreatest hcount
  obtain ⟨e, -, hfirst⟩ := h.2 0 hpos
  have hfold : (foldRuns rs).len = 0 := hzero _ (List.mem_of_getElem? hi)
  have hfirstLen : e.best.len = 0 := hzero _ (List.mem_of_getElem? hfirst)
  obtain rfl : i = 0 := Nat.le_zero.mp ((hmax 0 _ hfirst).2 (hfirstLen.trans hfold.symm))
  rw [(h.closedForm hi).eq_of_len_eq_zero hfold, segmentOf_start hpos, Nat.zero_mul]

end SegmentRunsFacts

/-! ### Past the barrier -/

section Lifted

variable {p : Params} {m : Memory} {n target count : Nat} {q : Par}

/-- Past the barrier the slots are the Runs of the segments, each of them VALID (R190, R191). -/
theorem FanOut.segmentRuns (h : FanOut p m n target count q) (hj : q.join = q.nseg) :
    SegmentRuns m n target count (q.sr.map (·.run)) ∧ q.sr = (q.sr.map (·.run)).map fun r => ⟨r, true⟩ := by
  refine ⟨⟨by rw [List.length_map, h.slots], fun i hi => ?_⟩, ?_⟩
  · obtain ⟨r, hr, hrun⟩ := h.run_of_lifted hj hi
    exact ⟨r, hr, by rw [List.getElem?_map, hrun, Option.map_some]⟩
  · have hvalid : ∀ y ∈ q.sr, y.valid = true := by
      rw [← List.countP_eq_length, ← h.join, hj, h.nseg, h.slots]
    rw [List.map_map]
    exact (List.map_id _).symm.trans (List.map_congr_left fun y hy => congrArg (Slot.mk y.run) (hvalid y hy))

/-- Past the barrier no worker is assigned (R190). -/
theorem FanOut.idle_of_lifted (h : FanOut p m n target count q) (hj : q.join = q.nseg) : ∀ w ∈ q.workers, w.assigned = none := by
  intro x hx
  obtain ⟨w, hw⟩ := List.mem_iff_getElem?.mp hx
  obtain ⟨r, a⟩ := x
  cases a with
  | none => rfl
  | some i =>
    obtain ⟨y, hy⟩ := h.lifted_iff.mp hj i (h.inTable w i r hw).1
    exact (h.pending w i r y hw hy).elim

end Lifted

/-! ### The command -/

section Command

variable {x : Byte} {s t : State}

theorem maxrunPar_passes_iff :
    firstViolation [checkBuflen s, checkTarget x, checkSegcount s, checkNonempty s] = none ↔
      s.bufFits ∧ x.toNat ≤ 1 ∧ s.segCount ≠ 0 ∧ s.n ≠ 0 := by
  simp [firstViolation_eq_none, checkBuflen_eq_none, checkTarget_eq_none, checkSegcount_eq_none, checkNonempty_eq_none,
    State.bufFits, State.bitlen]

/-- What MAXRUN_PAR has done where it completes: the operands passed the checks (R214), the slots hold the Runs of the segments of the
partition (R182, R187), the results are their fold (R191), and the barrier has lifted (R190). -/
structure ParResult (x : Byte) (s t : State) (rs : List Run) : Prop where
  fits : s.bufFits
  someSegment : s.segCount ≠ 0
  runs : SegmentRuns s.buf s.n x.toNat s.segCount rs
  res0 : t.res0 = (foldRuns rs).len
  res1 : t.res1 = (foldRuns rs).start
  res2 : t.res2 = 0
  nseg : t.par.nseg = s.segCount
  seg : t.par.seg = partition s.n s.segCount
  join : t.par.join = s.segCount
  sr : t.par.sr = rs.map fun r => ⟨r, true⟩
  idle : ∀ w ∈ t.par.workers, w.assigned = none

theorem execMaxrunPar_result (h : exec (.maxrunPar x) s = .next t) (hdone : t.st = .done) : ∃ rs, ParResult x s t rs := by
  rcases execMaxrunPar_eq_next.mp h with ⟨v, -, rfl⟩ | ⟨hpass, e, he, rfl⟩
  · cases hdone
  · obtain ⟨hfits, -, hsegs, -⟩ := maxrunPar_passes_iff.mp hpass
    obtain ⟨hfan, hj⟩ := fanOut_parInit he
    obtain ⟨hruns, hsr⟩ := hfan.segmentRuns hj
    obtain ⟨hlen, hstart⟩ := hruns.foldRuns_bounds hsegs
    refine ⟨_, hfits, hsegs, hruns, ?_, ?_, fit_of_lt _ _ (Nat.two_pow_pos _), hfan.nseg, hfan.seg, hj.trans hfan.nseg, hsr,
      hfan.idle_of_lifted hj⟩
    · rw [State.finish_res0, reduceSlots_eq_foldRuns, fit_of_lt _ _ (hlen.trans_lt hfits)]
    · rw [State.finish_res1, reduceSlots_eq_foldRuns, fit_of_lt _ _ (hstart.trans hfits)]

/-- MAXRUN_PAR completes on a supplied buffer where it passes its checks, for every schedule (R180, R250). -/
theorem execMaxrunPar_completes (hfits : s.bufFits) (hx : x.toNat ≤ 1) (hsegs : s.segCount ≠ 0) (hn : s.n ≠ 0)
    (hsup : s.supplied) : ∃ t, exec (.maxrunPar x) s = .next t ∧ t.st = .done := by
  obtain ⟨e, he⟩ := (parInit_fanOut (p := s.p) (q := s.par)).completes (parInit_withinFuel hsegs)
    (fun i hi => maxrunCore_completes hsup (segmentOf_start_lt hn hi)) s.sched
  exact ⟨_, execMaxrunPar_eq_next.mpr (.inr ⟨maxrunPar_passes_iff.mpr ⟨hfits, hx, hsegs, hn⟩, e, he, rfl⟩), rfl⟩

/-- Where MAXRUN over the whole buffer completes, its result is that of MAXRUN_CORE from position 0 on, for bitlen bits (R150). -/
theorem execMaxrun_wholeWindow_result (hfits : s.bufFits) (h : exec (.maxrun x) s.wholeWindow = .next t) (hdone : t.st = .done) :
    ∃ e, maxrunCore s.buf s.n x.toNat 0 (8 * s.n) = .next e ∧ t.res0 = e.best.len ∧ t.res1 = e.best.start := by
  rcases execMaxrun_eq_next.mp h with ⟨v, -, rfl⟩ | ⟨-, e, he, rfl⟩
  · cases hdone
  · obtain ⟨-, -, -, -, hlen, hstart⟩ := maxrunCore_scanned he
    exact ⟨e, he, fit_of_lt _ _ (hlen.trans_lt hfits), fit_of_lt _ _ (hstart.trans hfits)⟩

end Command

/-- Settles O39: the fan-out completes, and leaves the result of its slots. -/
theorem maxrunParFoldsSegmentRuns : Obligations.MaxrunParFoldsSegmentRuns := by
  intro x s hfits hx hsegs hn hsup
  obtain ⟨t, ht, hdone⟩ := execMaxrunPar_completes hfits hx hsegs hn hsup
  obtain ⟨rs, hrs⟩ := execMaxrunPar_result ht hdone
  exact ⟨t, rs, ht, hdone, hrs.runs, hrs.res0, hrs.res1, hrs.res2, hrs.nseg, hrs.seg, hrs.join, hrs.sr, hrs.idle⟩

/-- Settles O40: each slot is the Run of MAXRUN_CORE on its segment, and the results are the fold of the slots. -/
theorem maxrunParIgnoresSchedule : Obligations.MaxrunParIgnoresSchedule := by
  intro x s u t v hbuf hlen ht hv htdone hvdone
  obtain ⟨rs, hrs⟩ := execMaxrunPar_result ht htdone
  obtain ⟨rs', hrs'⟩ := execMaxrunPar_result hv hvdone
  have hn : s.n = u.n := hlen
  have hruns := hrs.runs
  rw [hbuf, hn] at hruns
  refine ⟨fun hsegs => ?_, fun i j g hi hj => ?_⟩
  · have hsegs : s.segCount = u.segCount := hsegs
    obtain rfl := (hsegs ▸ hruns).unique hrs'.runs
    exact ⟨hrs.res0.trans hrs'.res0.symm, hrs.res1.trans hrs'.res1.symm, hrs.sr.trans hrs'.sr.symm⟩
  · rw [hrs.seg, hn] at hi
    rw [hrs'.seg] at hj
    obtain ⟨hilt, hsegi⟩ := partition_getElem?_eq_some.mp hi
    obtain ⟨hjlt, hsegj⟩ := partition_getElem?_eq_some.mp hj
    rw [hrs.sr, hrs'.sr, List.getElem?_map, List.getElem?_map,
      hruns.getElem?_congr hrs'.runs hilt hjlt (hsegi.trans hsegj.symm)]

/-- Settles O41: the slots hold the Runs of the segments, of which the fold is the first of the greatest length. -/
theorem maxrunParPicksFirstLongest : Obligations.MaxrunParPicksFirstLongest := by
  intro x s t ht hdone
  obtain ⟨rs, hrs⟩ := execMaxrunPar_result ht hdone
  obtain ⟨i, hi, hmax⟩ := hrs.runs.firstGreatest hrs.someSegment
  have hget {j : Nat} {z : Slot} (hz : t.par.sr[j]? = some z) : rs[j]? = some z.run := by
    rw [hrs.sr, List.getElem?_map, Option.map_eq_some_iff] at hz
    obtain ⟨r, hr, rfl⟩ := hz
    exact hr
  refine ⟨⟨i, ⟨foldRuns rs, true⟩, ?_, hrs.res0, hrs.res1, fun j z hz => hmax j z.run (hget hz)⟩, fun hzero => ?_⟩
  · rw [hrs.sr, List.getElem?_map, hi, Option.map_some]
  · have hempty : foldRuns rs = ⟨0, 0⟩ := hrs.runs.foldRuns_eq_zero hrs.someSegment fun r hr =>
      hzero ⟨r, true⟩ (hrs.sr ▸ List.mem_map_of_mem hr)
    exact ⟨hrs.res0.trans (congrArg Run.len hempty), hrs.res1.trans (congrArg Run.start hempty)⟩

/-! ### MAXRUN over the whole buffer -/

section WholeBuffer

variable {m : Memory} {n target count : Nat} {rs : List Run} {e : ScanRegs}

/-- Where the last segment is the whole buffer, and so every other one is empty, the fold is MAXRUN_CORE's Run over the whole buffer. -/
theorem SegmentRuns.foldRuns_of_whole (h : SegmentRuns m n target count rs) (hcount : count ≠ 0)
    (hwhole : segmentOf n count (count - 1) = ⟨0, 8 * n⟩) (he : maxrunCore m n target 0 (8 * n) = .next e) :
    foldRuns rs = e.best := by
  obtain ⟨i, hi, hmax⟩ := h.firstGreatest hcount
  obtain ⟨e', he', hlast⟩ := h.2 (count - 1) (by omega)
  rw [hwhole] at he'
  obtain rfl := Host.Outcome.next.inj (he.symm.trans he')
  have hclosed := h.closedForm hi
  have hlt : i < count := (h.get hi).1
  rcases Nat.lt_or_ge i (count - 1) with hinner | hge
  · -- An empty segment has the longest Run: both Runs are (0, 0).
    have hend : (segmentOf n count i).start + (segmentOf n count i).length ≤ 0 := by
      simpa only [hwhole] using segmentOf_end_le_start (n := n) hinner (by omega : count - 1 < count)
    obtain ⟨hstart, hlen⟩ := Nat.add_eq_zero_iff.mp (Nat.le_zero.mp hend)
    rw [hstart, hlen] at hclosed
    have hfold : (foldRuns rs).len = 0 := Nat.le_zero.mp hclosed.len_le
    have hbest : e.best.len = 0 := Nat.le_zero.mp (hfold ▸ (hmax _ _ hlast).1)
    rw [hclosed.eq_of_len_eq_zero hfold, (maxrunCore_closedForm he).eq_of_len_eq_zero hbest]
  · obtain rfl : i = count - 1 := by omega
    exact Option.some.inj (hi.symm.trans hlast)

/-- The fold is no longer than MAXRUN_CORE's Run over the whole buffer, since each Run of a segment is a stretch of target bits of it
(R195). -/
theorem SegmentRuns.foldRuns_len_le (h : SegmentRuns m n target count rs) (hcount : count ≠ 0)
    (he : maxrunCore m n target 0 (8 * n) = .next e) : (foldRuns rs).len ≤ e.best.len := by
  obtain ⟨i, hi, -⟩ := h.firstGreatest hcount
  have hend := segmentOf_end_le (n := n) (h.get hi).1
  rcases h.closedForm hi with ⟨j0, j1, ⟨hrun, -⟩, hfold⟩ | ⟨-, hfold⟩
  · have hin := hrun.inside
    have hstretch := (maxrunCore_closedForm he).stretch_le (a := (segmentOf n count i).start + j0)
      (b := (segmentOf n count i).start + j1) (by omega) fun j hj hj' => by
        have hbit := hrun.equal (j - (segmentOf n count i).start) (by omega) (by omega)
        rwa [Nat.zero_add, ← Nat.add_sub_of_le (by omega : (segmentOf n count i).start ≤ j)]
    rw [hfold]
    dsimp only
    omega
  · rw [hfold]
    exact Nat.zero_le _

end WholeBuffer

/-- Where the last segment is the whole buffer MAXRUN_PAR and MAXRUN over the whole buffer have the same results. -/
theorem execMaxrunPar_eq_wholeWindow {x : Byte} {s t u : State}
    (hwhole : segmentOf s.n s.segCount (s.segCount - 1) = ⟨0, 8 * s.n⟩)
    (ht : exec (.maxrunPar x) s = .next t) (hu : exec (.maxrun x) s.wholeWindow = .next u) (htdone : t.st = .done)
    (hudone : u.st = .done) : t.res0 = u.res0 ∧ t.res1 = u.res1 := by
  obtain ⟨rs, hrs⟩ := execMaxrunPar_result ht htdone
  obtain ⟨e, he, hres0, hres1⟩ := execMaxrun_wholeWindow_result hrs.fits hu hudone
  rw [hrs.res0, hrs.res1, hres0, hres1, hrs.runs.foldRuns_of_whole hrs.someSegment hwhole he]
  exact ⟨rfl, rfl⟩

/-- Settles O43: the one segment is the last one. -/
theorem maxrunParOneSegment : Obligations.MaxrunParOneSegment := by
  have hwhole (n : Nat) : segmentOf n 1 0 = ⟨0, 8 * n⟩ := by simp [segmentOf]
  refine ⟨fun n => congrArg (fun g => [g]) (hwhole n), fun x s t u hone => execMaxrunPar_eq_wholeWindow ?_⟩
  rw [hone]
  exact hwhole s.n

/-- Settles O44: an equal share has no bytes, so the last segment has them all. -/
theorem maxrunParManySegments : Obligations.MaxrunParManySegments := by
  refine fun x s t u hmany => execMaxrunPar_eq_wholeWindow ?_
  rw [segmentOf, if_neg (by omega), Nat.div_eq_of_lt hmany, Nat.mul_zero, Nat.mul_zero, Nat.sub_zero]

/-- Settles O45: a Run of a segment is within a window run of the whole buffer. -/
theorem maxrunParUndercounts : Obligations.MaxrunParUndercounts := by
  intro x s t u ht hu htdone hudone
  obtain ⟨rs, hrs⟩ := execMaxrunPar_result ht htdone
  obtain ⟨e, he, hres0, -⟩ := execMaxrun_wholeWindow_result hrs.fits hu hudone
  rw [hrs.res0, hres0]
  exact hrs.runs.foldRuns_len_le hrs.someSegment he

end Sys2Proof.Machine
end

section
/-! PROOFS. The faults: the launch checks of a step (R214), and FAULT until reset (R220). -/

namespace Sys2Proof.Machine

variable {s t : State}

/-! ### The launch checks of a step -/

/-- Settles O6: in its turn the step is the block's move, which reports the first launch check that fails, and where none fails ends in
DONE. -/
theorem launchChecksInOrder : Obligations.LaunchChecksInOrder := fun _ hturn =>
  ⟨fun _ hv => (step_of_blockTurn hturn).trans (blockMove_of_violation hv),
    fun hnone _ ht => blockMove_of_no_violation hnone ((step_of_blockTurn hturn).symm.trans ht)⟩

/-! ### FAULT until reset -/

theorem Untouched.finfoRead (h : Untouched s t) : t.finfoRead = s.finfoRead := by
  simp only [State.finfoRead, h.st, h.finfo]

/-- A host event in FAULT is reset, or leaves the block state, FINFO and the command as they were (R220). -/
theorem hostEvent_of_fault {op : HostOp} {c : FaultCode} (hc : s.st = .fault c) (h : hostEvent op s = .next t) :
    (op = .reset ∧ t.st = .idle) ∨ Untouched s t := by
  rcases hostEvent_cases h with ⟨hop, rfl⟩ | ⟨v, -, hst, -⟩ | ⟨hkept, -⟩ | ⟨a, b, -, -, rfl⟩
  · exact .inl ⟨hop, rfl⟩
  · simp [hc] at hst
  · exact .inr hkept
  · exact .inr (by constructor <;> rfl)

/-- All that a step in FAULT can do. -/
theorem step_of_fault {c : FaultCode} (hc : s.st = .fault c) (h : step s = .next t) :
    (s.hostOp? = some .reset ∧ t.st = .idle) ∨ Untouched s t := by
  rw [step_of_waiting (by simp [hc])] at h
  rcases hostMove_cases s with ⟨op, hop, hm⟩ | ⟨-, hnone⟩
  · rcases hostEvent_of_fault hc (hm ▸ h) with ⟨rfl, hidle⟩ | hkept
    · exact .inl ⟨hop, hidle⟩
    · exact .inr hkept
  · obtain rfl : s = t := by simpa [hnone] using h
    exact .inr (Untouched.refl s)

/-- Settles O14: a step in FAULT is the host's reset, or leaves STATUS, FINFO, CMD and the latch untouched. -/
theorem faultIsSticky : Obligations.FaultIsSticky := by
  intro s t c hc h
  rcases step_of_fault hc h with hreset | hkept
  · exact .inr hreset
  · exact .inl ⟨hkept.st.trans hc, hkept.finfoRead, hkept.cmd, hkept.latch⟩

end Sys2Proof.Machine
end

section
/-! PROOFS. Every command on a supplied buffer ends (R256): in FAULT where a launch check fails, and in DONE where they all pass. -/

namespace Sys2Proof.Machine

variable {s : State}

theorem pos_lt_bitlen_of_passed (h : firstViolation [checkBuflen s, checkPos s] = none) : s.pos < s.bitlen :=
  checkPos_eq_none.mp (firstViolation_eq_none.mp h _ (by simp))

/-- On a supplied buffer no read is refused, so a command that passes its launch checks completes (R214, R250, R256). -/
theorem exec_completes_of_passed {i : Instr} (hsup : s.supplied) (hpass : firstViolation (checksOf s i) = none) :
    ∃ t, exec i s = .next t ∧ t.st = .done := by
  cases i with
  | addr x =>
    obtain ⟨b, hb⟩ := memRead_completes hsup (Nat.div_lt_of_lt_mul (pos_lt_bitlen_of_passed hpass))
    exact ⟨_, execAddr_eq_next.mpr (.inr ⟨hpass, b, hb, rfl⟩), rfl⟩
  | getbit x =>
    obtain ⟨b, hb⟩ := memRead_completes hsup (Nat.div_lt_of_lt_mul (pos_lt_bitlen_of_passed hpass))
    exact ⟨_, execGetbit_eq_next.mpr (.inr ⟨hpass, b, hb, rfl⟩), rfl⟩
  | count x =>
    obtain ⟨c, hc⟩ := countFrom_completes (target := x.toNat) hsup (Nat.zero_add s.n).le 0
    exact ⟨_, execCount_eq_next.mpr (.inr ⟨hpass, c, hc, rfl⟩), rfl⟩
  | leadrun x =>
    obtain ⟨hfits, hx, hstart⟩ := leadrun_passes_iff.mp hpass
    exact execLeadrun_completes hfits hx hstart hsup
  | maxrun x =>
    obtain ⟨-, -, hstart⟩ := leadrun_passes_iff.mp hpass
    obtain ⟨r, hr⟩ := maxrunCore_completes hsup hstart
    exact ⟨_, execMaxrun_eq_next.mpr (.inr ⟨hpass, r, hr, rfl⟩), rfl⟩
  | maxrunPar x =>
    obtain ⟨hfits, hx, hsegs, hn⟩ := maxrunPar_passes_iff.mp hpass
    exact execMaxrunPar_completes hfits hx hsegs hn hsup

/-- Settles O47: by the launch checks, the first that fails being a FAULT and none that fails letting the command complete. -/
theorem suppliedCommandsEnd : Obligations.SuppliedCommandsEnd := by
  intro i s hsup
  cases hv : firstViolation (checksOf s i) with
  | none =>
    obtain ⟨t, ht, hdone⟩ := exec_completes_of_passed hsup hv
    exact ⟨t, ht, .inl hdone⟩
  | some v => exact ⟨_, exec_of_violation hv, .inr ⟨v.1, rfl⟩⟩

end Sys2Proof.Machine
end
